-- ==== Sys2Proof/Word.lean ====
section
/-! DEFINITION. The plain value types of the Timer Unit: bytes, 16-bit counts, 40-bit data, clocks. -/

namespace Sys2Proof

/-- A byte: `DATA8`, a byte-wide register (`20_memory.md` R61). -/
abbrev Byte := BitVec 8

/-- A 16-bit quantity: the count and the latch (`00_scope.md` R6, `CNTW = 16`). -/
abbrev Half := BitVec 16

/-- 40 bits: the `ARG` field, the snapshot record and a result's `value` (`30_encoding.md` R80, R87, R90). -/
abbrev Arg := BitVec 40

/-- The seven fault bits (`10_state.md` R29). -/
abbrev FaultBits := BitVec 7

/-- A virtual clock value that may be `NEVER`: `none` is `NEVER`, "no pending event". A clock value that is a time is a
plain natural number: clock values are compared and subtracted as mathematical integers (`00_scope.md` R10, R12), and "a
model on unbounded naturals may represent `NEVER` as a separate top element" (R12). DEDUCED, log entry 4. -/
abbrev Deadline := Option Nat

end Sys2Proof
end

