-- ==== Sys2Proof/Config.lean ====
section
/-! DEFINITION. The implementation parameters of `00_scope.md` R6 with their defaults, and the configuration that is
fixed when the unit is created (R8). -/

namespace Sys2Proof

/-- The items R6 marks "parameter", with the value this hardware takes as the default. Operations that need one take
this structure as an argument. -/
structure Params where
  /-- `CLKW`, the width of a clock value (R6, `92_eei_decisions.md` D1). -/
  clkw : Nat := 32
  /-- `CLK_LIMIT = NEVER - 2^18`, the largest legal clock operand (R6, D2). -/
  clkLimit : Nat := 2 ^ clkw - 1 - 2 ^ 18
  /-- `LAT_SS`, the latency of a control write that is no restart (R6, `43_control_protocol.md` R155). -/
  latSS : Nat := 2
  /-- `LAT_RESTART`, the latency of a simultaneous stop-and-restart (R6, R155). -/
  latRestart : Nat := 3
deriving DecidableEq, Repr

/-- `DEPTH = 4`, fixed (R6, `10_state.md` R25). -/
abbrev depth : Nat := 4

/-- `NEVER = 2^CLKW - 1` as a clock register holds it (R6, `10_state.md` R20). -/
def Params.never (p : Params) : Nat := 2 ^ p.clkw - 1

/-- The constraints R6 and `93_implementation_defined.md` P2, P4 put on the parameters. -/
def Params.legal (p : Params) : Bool :=
  1 ≤ p.latSS && p.latSS ≤ p.latRestart && p.latRestart ≤ depth - 1 && p.clkLimit + 2 ^ 18 ≤ p.never

/-- The bits of a clock register: `NEVER` is the reserved maximum (`10_state.md` R20). -/
def Params.clockBits (p : Params) : Deadline → BitVec p.clkw
  | none => BitVec.ofNat p.clkw p.never
  | some t => BitVec.ofNat p.clkw t

/-- What is fixed when a unit is created and no command changes (R8): the parameters, and two names that are carried
with every message and never interpreted (`93_implementation_defined.md` P6). The spec gives the names no type; a natural
number stands for one: DESIGN CHOICE, log entry 7. -/
structure Configuration where
  /-- The parameters of R6. -/
  params : Params := {}
  /-- `callback_token`, the name of this unit with the Alarm Scheduler. -/
  callbackToken : Nat
  /-- The identity of the interrupt sink. -/
  interruptSink : Nat
deriving DecidableEq, Repr

namespace Config

/-- The parameters this hardware takes: every default of R6. -/
def params : Params := {}

/-- The token the host's one unit was created with: no value is known of it. DESIGN CHOICE, log entry 7. -/
opaque callbackToken : Nat

/-- The sink the host's one unit was created with: no value is known of it. DESIGN CHOICE, log entry 7. -/
opaque interruptSink : Nat

/-- The configuration of the host's one unit. -/
def unit : Configuration := { callbackToken := callbackToken, interruptSink := interruptSink }

end Config

end Sys2Proof
end

