-- ==== Sys2Proof/Syntax.lean ====
section
/-! DEFINITION. The thirteen commands (`30_encoding.md` R83) and their operands. -/

namespace Sys2Proof

/-- The register select `RS`, all eight values (`30_encoding.md` R86). -/
inductive RegSelect where
  | countLo | countHi | latchLo | latchHi | control
  | reserved5 | reserved6 | reserved7
deriving DecidableEq, Repr

/-- One command, one constructor per row of `spec/opcode_table.json`. `clk` is the clock operand (`CLK`), a clock
value; `k` the rebase constant in the same field. Operands stand as they are encoded (R84). -/
inductive Instr where
  | reset (clk : Nat)
  | advance (clk : Nat)
  | valueAt (clk : Nat)
  | setLatchLo (clk : Nat) (data : Byte)
  | setLatchHi (clk : Nat) (data : Byte)
  | setControl (clk : Nat) (data : Byte)
  | ackAlarm (clk : Nat)
  | regRead (clk : Nat) (rs : RegSelect)
  | regWrite (clk : Nat) (rs : RegSelect) (data : Byte)
  | cascadeTick (clk : Nat) (n : Half)
  | rebase (k : Nat)
  | snapshot (clk : Nat)
  | restore (clk : Nat) (snap : Arg)
deriving DecidableEq, Repr

/-- The value of the `CLK` field: the clock operand, or the constant `K` of `REBASE` (R80). -/
def Instr.clockField : Instr → Nat
  | .reset c => c
  | .advance c => c
  | .valueAt c => c
  | .setLatchLo c _ => c
  | .setLatchHi c _ => c
  | .setControl c _ => c
  | .ackAlarm c => c
  | .regRead c _ => c
  | .regWrite c _ _ => c
  | .cascadeTick c _ => c
  | .rebase k => k
  | .snapshot c => c
  | .restore c _ => c

end Sys2Proof
end

