-- ==== Sys2Proof/WellFormed.lean ====
section
/-! DEFINITION. Which commands have an encoding: the `CLK` field holds `CLKW` bits (`30_encoding.md` R80, R84). Every
other operand fits its field by its type. A well-formed command may still raise a fault when it runs. -/

namespace Sys2Proof

/-- The clock operand (or `K`) fits the `CLK` field of a machine with these parameters. -/
def Instr.fits (p : Params) (i : Instr) : Bool := i.clockField < 2 ^ p.clkw

/-- Encodable on this hardware (`CLKW = 32`). -/
def Instr.wellFormed (i : Instr) : Bool := i.fits Config.params

end Sys2Proof
end

