-- ==== Sys2Proof/Decode.lean ====
section
/-! DEFINITION. The command word, its decoder and its encoder (`30_encoding.md` R80 to R83, R86, R89). -/

namespace Sys2Proof

/-- The bits of a command word when a clock is `clkw` bits wide: `OP`, `CLK`, `ARG` (R80). -/
abbrev CommandWord (clkw : Nat) := BitVec (8 + clkw + 40)

/-- The command word of this hardware: 80 bits. -/
abbrev Word := BitVec 80

/-- `OP`, bits `CLKW+47 : CLKW+40` (R80). -/
def opField {clkw : Nat} (w : CommandWord clkw) : Byte := w.extractLsb' (clkw + 40) 8

/-- `CLK`, bits `CLKW+39 : 40`, a clock value or `K` (R80). -/
def clkField {clkw : Nat} (w : CommandWord clkw) : Nat := (w.extractLsb' 40 clkw).toNat

/-- `ARG`, bits 39:0 (R80); as a whole it is `SNAP` (R81). -/
def argField {clkw : Nat} (w : CommandWord clkw) : Arg := w.extractLsb' 0 40

/-- `DATA8`, bits 7:0 (R81). -/
def data8Field (a : Arg) : Byte := a.extractLsb' 0 8

/-- `RS`, bits 10:8 (R81). -/
def rsField (a : Arg) : BitVec 3 := a.extractLsb' 8 3

/-- `N16`, bits 15:0 (R81). -/
def n16Field (a : Arg) : Half := a.extractLsb' 0 16

/-- The register a select names (R86). -/
def decodeSelect (rs : BitVec 3) : RegSelect :=
  match rs.toNat with
  | 0 => .countLo
  | 1 => .countHi
  | 2 => .latchLo
  | 3 => .latchHi
  | 4 => .control
  | 5 => .reserved5
  | 6 => .reserved6
  | _ => .reserved7

/-- The select of a register (R86). -/
def encodeSelect : RegSelect → BitVec 3
  | .countLo => 0
  | .countHi => 1
  | .latchLo => 2
  | .latchHi => 3
  | .control => 4
  | .reserved5 => 5
  | .reserved6 => 6
  | .reserved7 => 7

/-- Why a word is no command. -/
inductive DecodeError where
  /-- `OP` 0x0D to 0xFF: the word raises `ILLOP` (R89(a)). -/
  | reservedOp (op : Byte)
deriving DecidableEq, Repr

/-- The command map (R83), on the fields of a word. A field the format does not name is not looked at (R81, R82). -/
def decodeFields (op : Byte) (clk : Nat) (arg : Arg) : Except DecodeError Instr :=
  match op.toNat with
  | 0x00 => .ok (.reset clk)
  | 0x01 => .ok (.advance clk)
  | 0x02 => .ok (.valueAt clk)
  | 0x03 => .ok (.setLatchLo clk (data8Field arg))
  | 0x04 => .ok (.setLatchHi clk (data8Field arg))
  | 0x05 => .ok (.setControl clk (data8Field arg))
  | 0x06 => .ok (.ackAlarm clk)
  | 0x07 => .ok (.regRead clk (decodeSelect (rsField arg)))
  | 0x08 => .ok (.regWrite clk (decodeSelect (rsField arg)) (data8Field arg))
  | 0x09 => .ok (.cascadeTick clk (n16Field arg))
  | 0x0A => .ok (.rebase clk)
  | 0x0B => .ok (.snapshot clk)
  | 0x0C => .ok (.restore clk arg)
  | _ => .error (.reservedOp op)

/-- Decode a word of a machine with `clkw`-bit clocks. -/
def decodeWord {clkw : Nat} (w : CommandWord clkw) : Except DecodeError Instr :=
  decodeFields (opField w) (clkField w) (argField w)

/-- Decode an 80-bit word of this hardware. -/
def decode (w : Word) : Except DecodeError Instr := decodeWord (clkw := 32) w

/-- `OP` of a command (R83). -/
def Instr.opcode : Instr → Byte
  | .reset _ => 0x00
  | .advance _ => 0x01
  | .valueAt _ => 0x02
  | .setLatchLo _ _ => 0x03
  | .setLatchHi _ _ => 0x04
  | .setControl _ _ => 0x05
  | .ackAlarm _ => 0x06
  | .regRead _ _ => 0x07
  | .regWrite _ _ _ => 0x08
  | .cascadeTick _ _ => 0x09
  | .rebase _ => 0x0A
  | .snapshot _ => 0x0B
  | .restore _ _ => 0x0C

/-- `ARG` of a command, with 0 in every bit its format does not name (R81, R82). -/
def Instr.argBits : Instr → Arg
  | .reset _ => 0
  | .advance _ => 0
  | .valueAt _ => 0
  | .setLatchLo _ d => d.setWidth 40
  | .setLatchHi _ d => d.setWidth 40
  | .setControl _ d => d.setWidth 40
  | .ackAlarm _ => 0
  | .regRead _ rs => (0#29 ++ encodeSelect rs) ++ 0#8
  | .regWrite _ rs d => (0#29 ++ encodeSelect rs) ++ d
  | .cascadeTick _ n => n.setWidth 40
  | .rebase _ => 0
  | .snapshot _ => 0
  | .restore _ s => s

/-- The bits of `ARG` a command's format names (R81, R82). -/
def Instr.argMask : Instr → Arg
  | .reset _ => 0
  | .advance _ => 0
  | .valueAt _ => 0
  | .setLatchLo _ _ => 0xFF
  | .setLatchHi _ _ => 0xFF
  | .setControl _ _ => 0xFF
  | .ackAlarm _ => 0
  | .regRead _ _ => 0x700
  | .regWrite _ _ _ => 0x7FF
  | .cascadeTick _ _ => 0xFFFF
  | .rebase _ => 0
  | .snapshot _ => 0
  | .restore _ _ => 0xFFFFFFFFFF

/-- The word of a command on a machine with `clkw`-bit clocks: `OP`, `CLK`, `ARG` (R80). -/
def encodeWord (clkw : Nat) (i : Instr) : CommandWord clkw :=
  i.opcode ++ BitVec.ofNat clkw i.clockField ++ i.argBits

/-- The 80-bit word of a command on this hardware. -/
def encode (i : Instr) : Word := encodeWord 32 i

/-- An instruction given as the low `nbits` bits of `w`, every higher bit 0, as one command word. Bit 0 is the least
significant bit of the word, so the number is the word itself. -/
def wordOfBits (nbits w : Nat) : Word := BitVec.ofNat 80 (w % 2 ^ nbits)

/-- What the decoder reads from an instruction of `nbits` bits numbered as `spec/opcode_table.json` numbers them. -/
def decodeTableWord (nbits w : Nat) : Option Instr :=
  match decode (wordOfBits nbits w) with
  | .ok i => some i
  | .error _ => none

end Sys2Proof
end

