-- ==== Sys2Proof/Machine/State.lean ====
section
/-! DEFINITION. Everything one Timer Unit holds (`10_state.md` R20 to R35), the outputs of its last command
(`30_encoding.md` R90, R91), the commands presented to it, and the state after power-on. -/

namespace Sys2Proof.Machine

/-- A Timer State (`10_state.md` R21), "a single snapshot of one countdown timer's configuration and phase, valid
starting at a given clock value". -/
structure TimerState where
  /-- `basis_clock`: the clock at which this state became valid. -/
  basis : Nat
  /-- `predicted_underflow_clock`, cached (R22); `none` is `NEVER`. -/
  pred : Deadline
  /-- `count`, valid as of `basis`. -/
  count : Half
  /-- `latch`, the reload value. -/
  latch : Half
  /-- `running`. -/
  running : Bool
  /-- `one_shot`; false is continuous. -/
  oneShot : Bool
  /-- `cascade_from_sibling`; false is phi-driven. -/
  cascade : Bool
  /-- `load_req`: the `LOAD` bit of the control write that made this entry (R24). -/
  loadReq : Bool
deriving DecidableEq, Repr

/-- The four functions of a control byte (`30_encoding.md` R85). -/
structure Control where
  start : Bool
  oneShot : Bool
  load : Bool
  cascade : Bool
deriving DecidableEq, Repr

/-- A Timer Unit (`10_state.md` R27). The History Stack is `current :: pending`, oldest first: it is never empty, and
slots at `len` and above hold no value (R25). DEDUCED, log entry 5. -/
structure TimerUnit where
  /-- `stack[0]`. -/
  current : TimerState
  /-- `stack[1..len-1]`. -/
  pending : List TimerState
  /-- `last_update_clock`, `LU`; never `NEVER`. -/
  lastUpdate : Nat
  /-- `armed_alarm_clock`, `AAC`. -/
  armed : Deadline
  /-- `FAULT`, the sticky fault bits (R29). -/
  fault : FaultBits
deriving DecidableEq, Repr

/-- The seven fault kinds (`60_exceptions.md` R220). -/
inductive FaultKind where
  | regress | badCtrl | stkOvf | illOp | badSnap | clkRange | stale
deriving DecidableEq, Repr

/-- The result of a command (`30_encoding.md` R90). -/
structure Result where
  /-- The fault bits raised by this command. -/
  fault : FaultBits
  /-- The number of underflows the command counted. -/
  n : Nat
  /-- The data the command returns, zero-extended. -/
  value : Arg
deriving DecidableEq, Repr

/-- An output message (`30_encoding.md` R91). -/
inductive Message where
  /-- `UNDERFLOW(n, os)` to the interrupt sink (`60_exceptions.md` R230). -/
  | underflow (n : Nat) (os : Bool)
  /-- `SCHEDULE(target)` to the Alarm Scheduler (`46_alarm_scheduler.md` R200); `none` is `NEVER`. -/
  | schedule (target : Deadline)
deriving DecidableEq, Repr

/-- What a command leaves when it completes: the unit, its result and its messages in delivery order. -/
structure Completion where
  unit : TimerUnit
  result : Result
  messages : List Message
deriving DecidableEq, Repr

/-- The whole machine. `unit` is the spec's state; the other three fields are the model's own. -/
structure State where
  /-- The Timer Unit. -/
  unit : TimerUnit
  /-- The command words presented and not yet executed, in the order issued (`20_memory.md` R67). DESIGN CHOICE,
  log entry 1. -/
  commands : List Word
  /-- The result of the last command, `none` before the first one. DESIGN CHOICE, log entry 2. -/
  result : Option Result
  /-- The messages of the last command (after power-on: of power-on), in delivery order. DESIGN CHOICE, log entry 2. -/
  messages : List Message
deriving DecidableEq, Repr

/-- Why a run stops with a host fault. The machine's own step never does: a fault of `60_exceptions.md` is recorded in
`FAULT` and the block goes on. -/
inductive Fault where
  /-- Raised by `debugStep` only, the optional debug build of `93_implementation_defined.md` U3: the command raised the
  fault bits `mask`, and the run is treated as failed. Safe: it stops where the default step goes on. -/
  | assertion (mask : FaultBits)
deriving DecidableEq, Repr

/-- Why a step has no meaning. -/
inductive Refusal where
  /-- An instruction without a meaning, named as the opcode table names it. No arm of this model answers it. Safe. -/
  | notModelled (mnemonic : String)
deriving DecidableEq, Repr

/-- The fixed Timer State of a reset at clock `clk` (`10_state.md` R35): latch and count at their maximum, not running,
continuous, phi-driven, no reload request. -/
def TimerState.atReset (clk : Nat) : TimerState :=
  { basis := clk, pred := none, count := 0xFFFF, latch := 0xFFFF, running := false, oneShot := false, cascade := false,
    loadReq := false }

/-- The machine right after power-on (`70_reset_and_hazards.md` R261): `FAULT` 0 and the effect of `RESET 0` with its
`SCHEDULE(NEVER)`. No command has been presented or executed: DESIGN CHOICE, log entry 3. -/
def State.reset : State :=
  { unit := { current := TimerState.atReset 0, pending := [], lastUpdate := 0, armed := none, fault := 0 }
    commands := []
    result := none
    messages := [.schedule none] }

end Sys2Proof.Machine
end

