-- ==== Sys2Proof/Machine/Flags.lean ====
section
/-! DEFINITION. The flags of the block: the mode flags of a Timer State and the byte they read back as
(`10_state.md` R31, `30_encoding.md` R88), and the fault bits (`10_state.md` R29). -/

namespace Sys2Proof.Machine

/-- Running and not in cascade mode: the count decrements once per clock tick (`00_scope.md` glossary, "Phi-driven"). -/
def TimerState.phiDriven (S : TimerState) : Bool := S.running && !S.cascade

/-- Running in cascade mode: the count decrements once per sibling underflow. -/
def TimerState.cascadeDriven (S : TimerState) : Bool := S.running && S.cascade

/-- The mode byte: bit 0 `running`, bit 1 `one_shot`, bit 2 zero, bit 3 `cascade`, bits 7:4 zero (`30_encoding.md` R88). -/
def TimerState.modeByte (S : TimerState) : Byte :=
  (0#4 ++ BitVec.ofBool S.cascade) ++ (0#1 ++ BitVec.ofBool S.oneShot) ++ BitVec.ofBool S.running

/-- The code of a fault kind, its bit number in `FAULT` and in a result (`60_exceptions.md` R220). -/
def FaultKind.code : FaultKind → Nat
  | .regress => 0
  | .badCtrl => 1
  | .stkOvf => 2
  | .illOp => 3
  | .badSnap => 4
  | .clkRange => 5
  | .stale => 6

/-- The fault bit of a kind. -/
def FaultKind.bit (k : FaultKind) : FaultBits := BitVec.twoPow 7 k.code

/-- Whether the kind ends its command (`60_exceptions.md` R220, class "abort"). -/
def FaultKind.aborts : FaultKind → Bool
  | .regress => false
  | .stkOvf => false
  | .badCtrl => true
  | .illOp => true
  | .badSnap => true
  | .clkRange => true
  | .stale => true

end Sys2Proof.Machine
end

