-- ==== Sys2Proof/Machine/Operands.lean ====
section
/-! DEFINITION. How operands are taken apart and put together: the latch from bytes (`30_encoding.md` R84), the control
byte (R85), the bytes of a 16-bit register (`20_memory.md` R62) and the snapshot record (`30_encoding.md` R87). -/

namespace Sys2Proof.Machine

/-- Bits 7:0 of a 16-bit quantity (`20_memory.md` R62). -/
def lowByte (v : Half) : Byte := v.extractLsb' 0 8

/-- Bits 15:8 of a 16-bit quantity (`20_memory.md` R62). -/
def highByte (v : Half) : Byte := v.extractLsb' 8 8

/-- The new latch of a low-byte write: `{latch[15:8], DATA8}` (`43_control_protocol.md` R151). -/
def withLowByte (latch : Half) (data : Byte) : Half := highByte latch ++ data

/-- The new latch of a high-byte write: `{DATA8, latch[7:0]}` (`43_control_protocol.md` R152). -/
def withHighByte (latch : Half) (data : Byte) : Half := data ++ lowByte latch

/-- Whether a control byte is malformed: a 1 in bits 7:4 (`30_encoding.md` R85, `43_control_protocol.md` R154). -/
def controlMalformed (data : Byte) : Bool := data.extractLsb' 4 4 != 0

/-- The four functions of a control byte (`43_control_protocol.md` R154). -/
def decodeControl (data : Byte) : Control :=
  { start := data.getLsbD 0, oneShot := data.getLsbD 1, load := data.getLsbD 2, cascade := data.getLsbD 3 }

/-- The control values of an entry, used to derive it again (`41_history_stack.md` R123). -/
def TimerState.control (E : TimerState) : Control :=
  { start := E.running, oneShot := E.oneShot, load := E.loadReq, cascade := E.cascade }

/-- The latency of a control write, from `running` of the newest entry (`43_control_protocol.md` R155, R156). -/
def latency (p : Params) (topRunning : Bool) (c : Control) : Nat :=
  if topRunning && c.start && c.load then p.latRestart else p.latSS

/-- The snapshot record of a Timer State that shows `count` (`30_encoding.md` R87, `45_maintenance.md` R182). -/
def packSnapshot (S : TimerState) (count : Half) : Arg := S.modeByte ++ count ++ S.latch

/-- The mode byte of a snapshot record, bits 39:32 (`30_encoding.md` R87). -/
def snapMode (snap : Arg) : Byte := snap.extractLsb' 32 8

/-- Whether a snapshot record is malformed: `SNAP[34] = 1` or `SNAP[39:36] != 0` (`30_encoding.md` R89(d)). -/
def snapshotMalformed (snap : Arg) : Bool := snap.getLsbD 34 || snap.extractLsb' 36 4 != 0

/-- `latch = snap[15:0]` (`45_maintenance.md` R183). -/
def snapLatch (snap : Arg) : Half := snap.extractLsb' 0 16

/-- `count = snap[31:16]` (`45_maintenance.md` R183). -/
def snapCount (snap : Arg) : Half := snap.extractLsb' 16 16

end Sys2Proof.Machine
end

