-- ==== Sys2Proof/Machine/Readback.lean ====
section
/-! DEFINITION. The pure functions on one Timer State (`40_timer_state_readback.md`): the cached prediction, the
read-back, the underflow instants, their number in an interval, and the projection to a later clock.
On a state that breaks R22 (running, phi-driven, `pred = NEVER`), which no run reaches, they treat the timer as one that
does not move: DESIGN CHOICE, log entry 9. -/

namespace Sys2Proof.Machine

/-- Ticks from one underflow instant of a continuous timer to the next, `latch + 1` (`00_scope.md` glossary, "Period"). -/
def TimerState.period (S : TimerState) : Nat := S.latch.toNat + 1

/-- The prediction a state should cache (`10_state.md` R22). -/
def TimerState.prediction (S : TimerState) : Deadline :=
  if S.phiDriven then some (S.basis + S.count.toNat) else none

/-- `mkpred(S)`: recompute the cached prediction (`10_state.md` R22). -/
def TimerState.mkpred (S : TimerState) : TimerState := { S with pred := S.prediction }

/-- `value_at(S, q)`: the count register as it shows at clock `q` (R100). -/
def TimerState.valueAt (S : TimerState) (q : Nat) : Half :=
  if S.phiDriven then
    match S.pred with
    | none => S.count
    | some P =>
      if q ≤ P then BitVec.ofNat 16 (P - q)
      else BitVec.ofNat 16 (S.latch.toNat - (q - P - 1) % S.period)
  else S.count

/-- `u` is an underflow instant of `S` (R101). -/
def TimerState.isInstant (S : TimerState) (u : Nat) : Bool :=
  S.phiDriven &&
    match S.pred with
    | none => false
    | some P => if S.oneShot then u == P else P ≤ u && (u - P) % S.period == 0

/-- `cnt(S, lo, hi)`: the number of underflow instants `u` of `S` with `lo < u <= hi` (R102). -/
def TimerState.cnt (S : TimerState) (lo hi : Nat) : Nat :=
  if S.phiDriven then
    match S.pred with
    | none => 0
    | some P =>
      if hi < P then 0
      else if S.oneShot then (if lo < P then 1 else 0)
      else
        let total := (hi - P) / S.period + 1
        let excl := if lo < P then 0 else (lo - P) / S.period + 1
        total - excl
  else 0

/-- `proj(S, t)`: the Timer State that describes the same timer as of clock `t` (R103). -/
def TimerState.proj (S : TimerState) (t : Nat) : TimerState :=
  if S.phiDriven then
    match S.pred with
    | none => S
    | some P =>
      if t < P then S
      else if S.oneShot then { S with running := false, count := 0, basis := t, pred := none }
      else
        let m := if t ≤ P then 0 else (t - P - 1) / S.period + 1
        if 1 ≤ m then
          let reload := P + (m - 1) * S.period + 1
          { S with basis := reload, count := S.latch, pred := some (reload + S.latch.toNat) }
        else S
  else { S with basis := t }

end Sys2Proof.Machine
end

