-- ==== Sys2Proof/Machine/History.lean ====
section
/-! DEFINITION. The Timer History Stack (`41_history_stack.md`): deriving the state a control change produces,
recording it, and deriving pending entries again. -/

namespace Sys2Proof.Machine

/-- `derive(Pr, b, c)`: the state a control change `c` produces at clock `b` on top of `Pr` (R120). -/
def TimerState.derive (Pr : TimerState) (b : Nat) (c : Control) : TimerState :=
  let Q := Pr.proj b
  TimerState.mkpred
    { basis := b, pred := none, latch := Q.latch, count := if c.load then Q.latch else Q.valueAt b
      running := c.start, oneShot := c.oneShot, cascade := c.cascade, loadReq := c.load }

/-- The whole stack, oldest first (`10_state.md` R25). -/
def TimerUnit.stack (u : TimerUnit) : List TimerState := u.current :: u.pending

/-- `len` (`10_state.md` R25). -/
def TimerUnit.len (u : TimerUnit) : Nat := u.stack.length

/-- The newest of an entry and the entries after it. -/
def newest : TimerState → List TimerState → TimerState
  | S, [] => S
  | _, E :: rest => newest E rest

/-- The top of the stack, `stack[len-1]` (`00_scope.md` R11). -/
def TimerUnit.top (u : TimerUnit) : TimerState := newest u.current u.pending

/-- The pending entries a push to basis `b` keeps: entries are dropped from the newest end while their basis is `b` or
later (R121, the `while` loop). -/
def keepBefore (b : Nat) : List TimerState → List TimerState
  | [] => []
  | E :: rest =>
    match keepBefore b rest with
    | [] => if b ≤ E.basis then [] else [E]
    | F :: more => E :: F :: more

/-- Whether a push to basis `b` finds the stack full after its discards (R121, R124). R121 tests `k = DEPTH`; a stack
never holds more (log entry 10). -/
def TimerUnit.pushOverflows (u : TimerUnit) (b : Nat) : Bool := depth ≤ 1 + (keepBefore b u.pending).length

/-- `push(b, c)` when it fits: discard the superseded entries, then append the state derived from the top that is left
(R121). -/
def TimerUnit.push (u : TimerUnit) (b : Nat) (c : Control) : TimerUnit :=
  let kept := keepBefore b u.pending
  { u with pending := kept ++ [(newest u.current kept).derive b c] }

/-- `rederive()` on the entries above `Pr`, oldest first (R122). -/
def rederiveAbove : TimerState → List TimerState → List TimerState
  | _, [] => []
  | Pr, E :: rest =>
    let E' := Pr.derive E.basis E.control
    E' :: rederiveAbove E' rest

/-- `rederive()`: every pending entry computed again from its predecessor (R122). -/
def TimerUnit.rederive (u : TimerUnit) : TimerUnit := { u with pending := rederiveAbove u.current u.pending }

end Sys2Proof.Machine
end

