-- ==== Sys2Proof/Machine/Ops.lean ====
section
/-! DEFINITION. The operations every command is made of: raising a fault (`60_exceptions.md` R222), the update
(`42_advance.md` R140), the alarm (`46_alarm_scheduler.md` R201 to R203), the report, the common shape of a clocked
command (`43_control_protocol.md` R150), and taking the next command word.
Raising a fault is this machine's taking of an exception: it saves nothing, changes no mode and goes to no handler, and
there is no return (`60_exceptions.md` R222, R228, R229). -/

namespace Sys2Proof.Machine

/-- `raise <Kind>`: the sticky bit is set (R222). -/
def TimerUnit.raise (u : TimerUnit) (k : FaultKind) : TimerUnit := { u with fault := u.fault ||| k.bit }

/-- An abort-class fault: the bit is set, the command ends with `result(value = 0, n = 0)`, nothing else changes and no
message is emitted (R222). -/
def abort (k : FaultKind) (u : TimerUnit) : Completion :=
  { unit := u.raise k, result := { fault := k.bit, n := 0, value := 0 }, messages := [] }

/-- A command under way: the unit, the underflows counted so far (`n`, `os`), the fault bits raised so far. -/
structure Progress where
  unit : TimerUnit
  n : Nat
  os : Bool
  raised : FaultBits
deriving DecidableEq, Repr

/-- A continue-class fault: the bit is set and the command goes on (R222). -/
def Progress.raise (w : Progress) (k : FaultKind) : Progress :=
  { w with unit := w.unit.raise k, raised := w.raised ||| k.bit }

/-- The stack after the collapse of `42_advance.md` R142, with what was counted in the dropped entries' windows. -/
structure Collapsed where
  current : TimerState
  pending : List TimerState
  lo : Nat
  n : Nat
  os : Bool
deriving DecidableEq, Repr

/-- The `while` loop of `advance(T)`: entries superseded by `T` are counted inside their own windows and dropped (R142). -/
def collapse (T : Nat) : Nat → TimerState → List TimerState → Collapsed
  | lo, S, [] => { current := S, pending := [], lo := lo, n := 0, os := false }
  | lo, S, E :: rest =>
    if E.basis ≤ T then
      let k := S.cnt lo (E.basis - 1)
      let r := collapse T (E.basis - 1) E rest
      { r with n := k + r.n, os := (S.oneShot && k == 1) || r.os }
    else { current := S, pending := E :: rest, lo := lo, n := 0, os := false }

/-- `advance(T)` for `T >= LU`: collapse, count the last window, normalise, move `LU` (R140, R142 to R145). -/
def TimerUnit.advanceTo (u : TimerUnit) (T : Nat) : Progress :=
  let r := collapse T u.lastUpdate u.current u.pending
  let k := r.current.cnt r.lo T
  { unit := { u with current := r.current.proj T, pending := r.pending, lastUpdate := T }
    n := r.n + k
    os := r.os || (r.current.oneShot && k == 1)
    raised := 0 }

/-- `advance(T)`: a clock below `LU` raises `REGRESS` and the update runs at `LU` (R140, R141). -/
def TimerUnit.advance (u : TimerUnit) (T : Nat) : Progress :=
  if T < u.lastUpdate then (u.advanceTo u.lastUpdate).raise .regress else u.advanceTo T

/-- The first underflow instant of `S` after `lo` (`46_alarm_scheduler.md` R201, the `x` of the loop). -/
def TimerState.nextInstant (S : TimerState) (lo : Nat) : Deadline :=
  if S.phiDriven then
    match S.pred with
    | none => none
    | some P =>
      if lo < P then some P
      else if S.oneShot then none
      else some (P + ((lo - P) / S.period + 1) * S.period)
  else none

/-- The loop of `target()` from one entry on: the first entry with an uncounted instant inside its window gives the
target (`46_alarm_scheduler.md` R201). -/
def targetFrom : Nat → TimerState → List TimerState → Deadline
  | lo, S, [] => S.nextInstant lo
  | lo, S, E :: rest =>
    match S.nextInstant lo with
    | none => targetFrom (E.basis - 1) E rest
    | some x => if x ≤ E.basis - 1 then some x else targetFrom (E.basis - 1) E rest

/-- `target()` (`46_alarm_scheduler.md` R201). -/
def TimerUnit.target (u : TimerUnit) : Deadline := targetFrom u.lastUpdate u.current u.pending

/-- The state part of `rearm()`: `AAC` is the target (`46_alarm_scheduler.md` R202). -/
def TimerUnit.rearm (u : TimerUnit) : TimerUnit := { u with armed := u.target }

/-- The message part of `rearm()`: `SCHEDULE` only when the target differs from `AAC` (`46_alarm_scheduler.md` R202). -/
def TimerUnit.rearmMessages (u : TimerUnit) : List Message :=
  if u.target = u.armed then [] else [.schedule u.target]

/-- The `UNDERFLOW` message of a command that counted `n` underflows: none for 0 (`60_exceptions.md` R230). -/
def underflowMessages (n : Nat) (os : Bool) : List Message := if 1 ≤ n then [.underflow n os] else []

/-- Re-arm and report (`43_control_protocol.md` R150, steps 4 and 5): `UNDERFLOW` is delivered before `SCHEDULE`
(`60_exceptions.md` R232). -/
def Progress.finish (w : Progress) (value : TimerUnit → Arg) : Completion :=
  { unit := w.unit.rearm
    result := { fault := w.raised, n := w.n, value := value w.unit }
    messages := underflowMessages w.n w.os ++ w.unit.rearmMessages }

/-- The result value of a command that returns no data. -/
def noValue (_ : TimerUnit) : Arg := 0

/-- `rearm_forced()` and the report of a command that counts nothing: `SCHEDULE` is sent whatever `AAC` holds
(`46_alarm_scheduler.md` R203). -/
def TimerUnit.finishForced (u : TimerUnit) : Completion :=
  { unit := u.rearm, result := { fault := 0, n := 0, value := 0 }, messages := [.schedule u.target] }

/-- The clock-range check: a clock operand above `CLK_LIMIT` raises `CLKRANGE` and ends the command
(`00_scope.md` R12, `60_exceptions.md` R221). -/
def withLegalClock (p : Params) (clk : Nat) (u : TimerUnit) (run : TimerUnit → Completion) : Completion :=
  if p.clkLimit < clk then abort .clkRange u else run u

/-- The common shape of a clocked command: legality, update, body, re-arm, report (`43_control_protocol.md` R150). -/
def clocked (p : Params) (clk : Nat) (body : Progress → Progress) (value : TimerUnit → Arg) (u : TimerUnit) :
    Completion :=
  withLegalClock p clk u fun v => (body (v.advance clk)).finish value

/-- The state when a command completes: the unit, the result and the messages are those of the command. -/
def State.complete (s : State) (c : Completion) : State :=
  { s with unit := c.unit, result := some c.result, messages := c.messages }

/-- The next command word and the state without it, or nothing when no command is presented (`20_memory.md` R67). -/
def State.nextCommand (s : State) : Option (Word × State) :=
  match s.commands with
  | [] => none
  | w :: rest => some (w, { s with commands := rest })

/-- A word with a reserved `OP`: `ILLOP` is raised and nothing else changes (`30_encoding.md` R89(a)). -/
def State.illegalOp (s : State) : State := s.complete (abort .illOp s.unit)

end Sys2Proof.Machine
end

