-- ==== Sys2Proof/Machine/ControlProtocol.lean ====
section
/-! DEFINITION. The Control Protocol (`43_control_protocol.md`): `SET_LATCH_LO`, `SET_LATCH_HI`, `SET_CONTROL`,
`ACK_ALARM`, `CASCADE_TICK`. -/

namespace Sys2Proof.Machine

/-- A Timer State with a new latch: the idle mirror copies all 16 bits into the count of a stopped timer (R153). -/
def TimerState.withLatch (S : TimerState) (newlatch : Half) : TimerState :=
  TimerState.mkpred { S with latch := newlatch, count := if S.running then S.count else newlatch }

/-- The body of both latch writes; `newlatch` is computed from the latch in force (R153). -/
def Progress.writeLatch (newlatch : Half → Half) (w : Progress) : Progress :=
  let S := w.unit.current
  { w with unit := TimerUnit.rederive { w.unit with current := S.withLatch (newlatch S.latch) } }

/-- `SET_LATCH_LO clk, byte` on a unit (R151, R153). -/
def setLatchLoUnit (p : Params) (clk : Nat) (data : Byte) (u : TimerUnit) : Completion :=
  clocked p clk (Progress.writeLatch (withLowByte · data)) noValue u

/-- `SET_LATCH_HI clk, byte` on a unit (R152, R153). -/
def setLatchHiUnit (p : Params) (clk : Nat) (data : Byte) (u : TimerUnit) : Completion :=
  clocked p clk (Progress.writeLatch (withHighByte · data)) noValue u

/-- The body of a control write at the clamped clock `w = LU`: push the change at `w + lat`, or raise `STKOVF` and skip
the push (R155, `41_history_stack.md` R121, R124). -/
def Progress.writeControl (p : Params) (c : Control) (w : Progress) : Progress :=
  let b := w.unit.lastUpdate + latency p w.unit.top.running c
  if w.unit.pushOverflows b then w.raise .stkOvf else { w with unit := w.unit.push b c }

/-- `SET_CONTROL clk, byte` on a unit (R155): the control byte is checked before the clock (R154). -/
def setControlUnit (p : Params) (clk : Nat) (data : Byte) (u : TimerUnit) : Completion :=
  if controlMalformed data then abort .badCtrl u
  else clocked p clk (Progress.writeControl p (decodeControl data)) noValue u

/-- `ACK_ALARM clk` on a unit (R157): the dispatch consumed the registration, so `AAC` is `NEVER` before the update. -/
def ackAlarmUnit (p : Params) (clk : Nat) (u : TimerUnit) : Completion :=
  withLegalClock p clk u fun v => (TimerUnit.advance { v with armed := none } clk).finish noValue

/-- The underflows `m` that `k` sibling ticks give a continuous cascade timer showing `c` (R158). -/
def cascadeUnderflows (c per k : Nat) : Nat :=
  if 1 ≤ c then (if k < c then 0 else (k - c) / per + 1) else k / per

/-- The count after `k` sibling ticks of a continuous cascade timer showing `c` (R158, `newc`). -/
def cascadeCount (latch c k : Nat) : Nat := if k ≤ c then c - k else latch - (k - c - 1) % (latch + 1)

/-- A one-shot cascade timer that `k` sibling ticks stop (R158). -/
def TimerState.cascadeStops (S : TimerState) (k : Nat) : Bool :=
  S.oneShot && 1 ≤ cascadeUnderflows S.count.toNat S.period k

/-- The Timer State after `k` sibling ticks: a one-shot timer stops at its first underflow with count 0 (R158). -/
def TimerState.cascaded (S : TimerState) (k : Nat) : TimerState :=
  TimerState.mkpred
    (if S.cascadeStops k then { S with count := 0, running := false }
     else { S with count := BitVec.ofNat 16 (cascadeCount S.latch.toNat S.count.toNat k) })

/-- The body of `CASCADE_TICK`: ticks to a state that is not running or not in cascade mode are dropped (R158). -/
def Progress.siblingTicks (k : Nat) (w : Progress) : Progress :=
  let S := w.unit.current
  if S.cascadeDriven && 1 ≤ k then
    { w with
      unit := TimerUnit.rederive { w.unit with current := S.cascaded k }
      n := w.n + (if S.cascadeStops k then 1 else cascadeUnderflows S.count.toNat S.period k)
      os := w.os || S.cascadeStops k }
  else w

/-- `CASCADE_TICK clk, n16` on a unit (R158). -/
def cascadeTickUnit (p : Params) (clk : Nat) (k : Half) (u : TimerUnit) : Completion :=
  clocked p clk (Progress.siblingTicks k.toNat) noValue u

/-- `SET_LATCH_LO clk, byte` (R151). -/
def execSetLatchLo (clk : Nat) (data : Byte) (s : State) (p : Params := Config.params) :
    Host.Outcome State Fault Refusal :=
  .next (s.complete (setLatchLoUnit p clk data s.unit))

/-- `SET_LATCH_HI clk, byte` (R152). -/
def execSetLatchHi (clk : Nat) (data : Byte) (s : State) (p : Params := Config.params) :
    Host.Outcome State Fault Refusal :=
  .next (s.complete (setLatchHiUnit p clk data s.unit))

/-- `SET_CONTROL clk, byte` (R155). -/
def execSetControl (clk : Nat) (data : Byte) (s : State) (p : Params := Config.params) :
    Host.Outcome State Fault Refusal :=
  .next (s.complete (setControlUnit p clk data s.unit))

/-- `ACK_ALARM clk` (R157). -/
def execAckAlarm (clk : Nat) (s : State) (p : Params := Config.params) : Host.Outcome State Fault Refusal :=
  .next (s.complete (ackAlarmUnit p clk s.unit))

/-- `CASCADE_TICK clk, n16` (R158). -/
def execCascadeTick (clk : Nat) (n : Half) (s : State) (p : Params := Config.params) :
    Host.Outcome State Fault Refusal :=
  .next (s.complete (cascadeTickUnit p clk n s.unit))

end Sys2Proof.Machine
end

