-- ==== Sys2Proof/Machine/Maintenance.lean ====
section
/-! DEFINITION. The maintenance commands (`45_maintenance.md`): `RESET`, `REBASE`, `SNAPSHOT`, `RESTORE`. -/

namespace Sys2Proof.Machine

/-- `RESET clk` on a unit (R180): everything but `FAULT`, no update, `SCHEDULE(NEVER)` always. -/
def resetUnit (p : Params) (clk : Nat) (u : TimerUnit) : Completion :=
  withLegalClock p clk u fun v =>
    TimerUnit.finishForced
      { current := TimerState.atReset clk, pending := [], lastUpdate := clk, armed := none, fault := v.fault }

/-- A Timer State with its clocks lowered by `K`; `NEVER` is not shifted (R181). -/
def TimerState.rebased (S : TimerState) (K : Nat) : TimerState :=
  { S with basis := S.basis - K, pred := S.pred.map (· - K) }

/-- A unit with every stored clock lowered by `K` (R181). -/
def TimerUnit.rebased (u : TimerUnit) (K : Nat) : TimerUnit :=
  { u with
    current := u.current.rebased K
    pending := u.pending.map (·.rebased K)
    lastUpdate := u.lastUpdate - K
    armed := u.armed.map (· - K) }

/-- `REBASE K` on a unit (R181): no update and no message. -/
def rebaseUnit (K : Nat) (u : TimerUnit) : Completion :=
  if u.current.basis < K then abort .clkRange u
  else { unit := u.rebased K, result := { fault := 0, n := 0, value := 0 }, messages := [] }

/-- The snapshot record of the current entry with its live count (R182). -/
def TimerUnit.record (u : TimerUnit) : Arg := packSnapshot u.current (u.current.valueAt u.lastUpdate)

/-- `SNAPSHOT clk` on a unit (R182). -/
def snapshotUnit (p : Params) (clk : Nat) (u : TimerUnit) : Completion := clocked p clk id TimerUnit.record u

/-- The single entry of a restore at clock `clk` (R183). -/
def TimerState.ofRecord (clk : Nat) (snap : Arg) : TimerState :=
  TimerState.mkpred
    { basis := clk, pred := none, latch := snapLatch snap, count := snapCount snap
      running := snap.getLsbD 32, oneShot := snap.getLsbD 33, cascade := snap.getLsbD 35, loadReq := false }

/-- `RESTORE clk, snap` on a unit (R183): everything but `FAULT`, no update, `SCHEDULE` always. -/
def restoreUnit (p : Params) (clk : Nat) (snap : Arg) (u : TimerUnit) : Completion :=
  if snapshotMalformed snap then abort .badSnap u
  else withLegalClock p clk u fun v =>
    TimerUnit.finishForced
      { current := TimerState.ofRecord clk snap, pending := [], lastUpdate := clk, armed := none, fault := v.fault }

/-- `RESET clk` (R180). -/
def execReset (clk : Nat) (s : State) (p : Params := Config.params) : Host.Outcome State Fault Refusal :=
  .next (s.complete (resetUnit p clk s.unit))

/-- `REBASE k` (R181). -/
def execRebase (k : Nat) (s : State) : Host.Outcome State Fault Refusal :=
  .next (s.complete (rebaseUnit k s.unit))

/-- `SNAPSHOT clk` (R182). -/
def execSnapshot (clk : Nat) (s : State) (p : Params := Config.params) : Host.Outcome State Fault Refusal :=
  .next (s.complete (snapshotUnit p clk s.unit))

/-- `RESTORE clk, snap` (R183). -/
def execRestore (clk : Nat) (snap : Arg) (s : State) (p : Params := Config.params) :
    Host.Outcome State Fault Refusal :=
  .next (s.complete (restoreUnit p clk snap s.unit))

end Sys2Proof.Machine
end

