-- ==== Sys2Proof/Machine/RegisterInterface.lean ====
section
/-! DEFINITION. The byte-wide register interface (`44_register_interface.md`): `REG_READ` and `REG_WRITE`. -/

namespace Sys2Proof.Machine

/-- The byte a register shows in an updated unit, or nothing for a reserved select (R170). The count is the live value,
`CONTROL` is the mode byte of the top entry. -/
def TimerUnit.registerByte (u : TimerUnit) : RegSelect → Option Byte
  | .countLo => some (lowByte (u.current.valueAt u.lastUpdate))
  | .countHi => some (highByte (u.current.valueAt u.lastUpdate))
  | .latchLo => some (lowByte u.current.latch)
  | .latchHi => some (highByte u.current.latch)
  | .control => some u.top.modeByte
  | .reserved5 => none
  | .reserved6 => none
  | .reserved7 => none

/-- `REG_READ` of a select that is not reserved: the common shape, with the register's byte, zero-extended (R170). -/
def readRegister (p : Params) (clk : Nat) (rs : RegSelect) (u : TimerUnit) : Completion :=
  clocked p clk id (fun v => ((v.registerByte rs).getD 0).setWidth 40) u

/-- `REG_READ clk, rs` on a unit (R170): a reserved select is refused before the clock is looked at
(`60_exceptions.md` R221). -/
def regReadUnit (p : Params) (clk : Nat) (rs : RegSelect) (u : TimerUnit) : Completion :=
  match rs with
  | .countLo => readRegister p clk .countLo u
  | .countHi => readRegister p clk .countHi u
  | .latchLo => readRegister p clk .latchLo u
  | .latchHi => readRegister p clk .latchHi u
  | .control => readRegister p clk .control u
  | .reserved5 => abort .illOp u
  | .reserved6 => abort .illOp u
  | .reserved7 => abort .illOp u

/-- A write to `COUNT_LO` or `COUNT_HI`: read-only, dropped after the clock-range check (R171). -/
def dropWrite (p : Params) (clk : Nat) (u : TimerUnit) : Completion :=
  withLegalClock p clk u fun v => { unit := v, result := { fault := 0, n := 0, value := 0 }, messages := [] }

/-- `REG_WRITE clk, rs, byte` on a unit (R171): exactly the Control Protocol command the register stands for. -/
def regWriteUnit (p : Params) (clk : Nat) (rs : RegSelect) (data : Byte) (u : TimerUnit) : Completion :=
  match rs with
  | .countLo => dropWrite p clk u
  | .countHi => dropWrite p clk u
  | .latchLo => setLatchLoUnit p clk data u
  | .latchHi => setLatchHiUnit p clk data u
  | .control => setControlUnit p clk data u
  | .reserved5 => abort .illOp u
  | .reserved6 => abort .illOp u
  | .reserved7 => abort .illOp u

/-- `REG_READ clk, rs` (R170). -/
def execRegRead (clk : Nat) (rs : RegSelect) (s : State) (p : Params := Config.params) :
    Host.Outcome State Fault Refusal :=
  .next (s.complete (regReadUnit p clk rs s.unit))

/-- `REG_WRITE clk, rs, byte` (R171). -/
def execRegWrite (clk : Nat) (rs : RegSelect) (data : Byte) (s : State) (p : Params := Config.params) :
    Host.Outcome State Fault Refusal :=
  .next (s.complete (regWriteUnit p clk rs data s.unit))

end Sys2Proof.Machine
end

