-- ==== Sys2Proof/Machine/Update.lean ====
section
/-! DEFINITION. `ADVANCE` (`42_advance.md` R146) and `VALUE_AT` (`40_timer_state_readback.md` R105). -/

namespace Sys2Proof.Machine

/-- `ADVANCE clk` on a unit (`42_advance.md` R146). -/
def advanceUnit (p : Params) (clk : Nat) (u : TimerUnit) : Completion := clocked p clk id noValue u

/-- `VALUE_AT clk` on a unit: pure, and legal only at `clk = LU` (`40_timer_state_readback.md` R105). -/
def valueAtUnit (p : Params) (clk : Nat) (u : TimerUnit) : Completion :=
  withLegalClock p clk u fun v =>
    if clk = v.lastUpdate then
      { unit := v, result := { fault := 0, n := 0, value := (v.current.valueAt clk).setWidth 40 }, messages := [] }
    else abort .stale v

/-- `ADVANCE clk` (`42_advance.md` R146). -/
def execAdvance (clk : Nat) (s : State) (p : Params := Config.params) : Host.Outcome State Fault Refusal :=
  .next (s.complete (advanceUnit p clk s.unit))

/-- `VALUE_AT clk` (`40_timer_state_readback.md` R105). -/
def execValueAt (clk : Nat) (s : State) (p : Params := Config.params) : Host.Outcome State Fault Refusal :=
  .next (s.complete (valueAtUnit p clk s.unit))

end Sys2Proof.Machine
end

