-- ==== Sys2Proof/Machine/Dispatch.lean ====
section
/-! DEFINITION. One arm per command of the opcode table (`30_encoding.md` R83). -/

namespace Sys2Proof.Machine

def exec (i : Instr) (s : State) : Host.Outcome State Fault Refusal :=
  match i with
  | .reset clk => Sys2Proof.Machine.execReset clk s
  | .advance clk => Sys2Proof.Machine.execAdvance clk s
  | .valueAt clk => Sys2Proof.Machine.execValueAt clk s
  | .setLatchLo clk data => Sys2Proof.Machine.execSetLatchLo clk data s
  | .setLatchHi clk data => Sys2Proof.Machine.execSetLatchHi clk data s
  | .setControl clk data => Sys2Proof.Machine.execSetControl clk data s
  | .ackAlarm clk => Sys2Proof.Machine.execAckAlarm clk s
  | .regRead clk rs => Sys2Proof.Machine.execRegRead clk rs s
  | .regWrite clk rs data => Sys2Proof.Machine.execRegWrite clk rs data s
  | .cascadeTick clk n => Sys2Proof.Machine.execCascadeTick clk n s
  | .rebase k => Sys2Proof.Machine.execRebase k s
  | .snapshot clk => Sys2Proof.Machine.execSnapshot clk s
  | .restore clk snap => Sys2Proof.Machine.execRestore clk snap s

end Sys2Proof.Machine
end

