-- ==== Sys2Proof/Machine/Parameters.lean ====
section
/-! DEFINITION. The machine with its parameters as arguments (`00_scope.md` R6): a command, a command word and a run of
command words at any `Params`. `exec` and `step` are these at the defaults. -/

namespace Sys2Proof.Machine

/-- `exec` with the parameters as an argument: the same meanings, given `p` in place of its default. -/
def execAt (p : Params) (i : Instr) (s : State) : Host.Outcome State Fault Refusal :=
  match i with
  | .reset clk => execReset clk s p
  | .advance clk => execAdvance clk s p
  | .valueAt clk => execValueAt clk s p
  | .setLatchLo clk data => execSetLatchLo clk data s p
  | .setLatchHi clk data => execSetLatchHi clk data s p
  | .setControl clk data => execSetControl clk data s p
  | .ackAlarm clk => execAckAlarm clk s p
  | .regRead clk rs => execRegRead clk rs s p
  | .regWrite clk rs data => execRegWrite clk rs data s p
  | .cascadeTick clk n => execCascadeTick clk n s p
  | .rebase k => execRebase k s
  | .snapshot clk => execSnapshot clk s p
  | .restore clk snap => execRestore clk snap s p

/-- A word of `8 + CLKW + 40` bits presented to a machine with these parameters: the command it decodes to is executed,
a reserved `OP` raises `ILLOP` (`30_encoding.md` R80, R89(a)). -/
def executeWord (p : Params) (w : CommandWord p.clkw) (s : State) : Host.Outcome State Fault Refusal :=
  match decodeWord w with
  | .ok i => execAt p i s
  | .error (.reservedOp _) => .next s.illegalOp

/-- A stream of words presented one after the other to a machine with these parameters (`20_memory.md` R67). -/
def executeWords (p : Params) : List (CommandWord p.clkw) → State → Host.Outcome State Fault Refusal
  | [], s => .next s
  | w :: rest, s =>
    match executeWord p w s with
    | .next t => executeWords p rest t
    | .fault f => .fault f
    | .refused r => .refused r

end Sys2Proof.Machine
end

