-- ==== Sys2Proof/Machine/Step.lean ====
section
/-! DEFINITION. One step of the machine: the next presented command is executed atomically and completely
(`00_scope.md` R5, `20_memory.md` R63, R67). -/

namespace Sys2Proof.Machine

/-- One step. With no command presented the block is idle and holds its state (`60_exceptions.md` R238,
`70_reset_and_hazards.md` R260): DEDUCED, log entry 13. A reserved `OP` raises `ILLOP` (`30_encoding.md` R89(a)). -/
def step (s : State) : Host.Outcome State Fault Refusal :=
  match s.nextCommand with
  | none => .next s
  | some (w, rest) =>
    match decode w with
    | .ok i => exec i rest
    | .error (.reservedOp _) => .next rest.illegalOp

/-- `s` with the given instruction presented as the next command, before any that are already waiting. It stands for
the owner or the scheduler presenting a command from outside: DESIGN CHOICE, log entries 1 and 17. -/
def State.withFetchWord (s : State) (nbits w : Nat) : State :=
  { s with commands := wordOfBits nbits w :: s.commands }

end Sys2Proof.Machine
end

