-- ==== Sys2Proof/Machine/Ports.lean ====
section
/-! DEFINITION. The output ports: what the receivers of a command's messages get (`30_encoding.md` R91,
`46_alarm_scheduler.md` R200, `60_exceptions.md` R230), and the optional debug build
(`93_implementation_defined.md` U3). -/

namespace Sys2Proof.Machine

/-- A message as it is delivered by a machine with `clkw`-bit clocks. -/
inductive Delivery (clkw : Nat) where
  /-- To the interrupt sink: `n`, at least 1, and the `os` bit. -/
  | toSink (sink : Nat) (n : Nat) (os : Bool)
  /-- To the Alarm Scheduler: the unit's callback token and the target, `NEVER` being the reserved maximum (R20). -/
  | toScheduler (token : Nat) (target : BitVec clkw)
deriving DecidableEq, Repr

/-- A message as the unit with this configuration delivers it: an `UNDERFLOW` goes to its interrupt sink, a `SCHEDULE`
always carries its token (`00_scope.md` R8, R91, R200). -/
def Message.delivery (m : Message) (c : Configuration := Config.unit) : Delivery c.params.clkw :=
  match m with
  | .underflow n os => .toSink c.interruptSink n os
  | .schedule target => .toScheduler c.callbackToken (c.params.clockBits target)

/-- What the last command (after power-on: power-on) delivered, in order (`60_exceptions.md` R232). -/
def State.deliveries (s : State) (c : Configuration := Config.unit) : List (Delivery c.params.clkw) :=
  s.messages.map fun m => m.delivery c

/-- A word presented to the unit with this configuration: the state it leaves and what it delivers. The configuration is
an argument that no command changes, and its names only go along with the messages (`00_scope.md` R8,
`93_implementation_defined.md` P6). -/
def presentWord (c : Configuration) (w : CommandWord c.params.clkw) (s : State) :
    Host.Outcome (State × List (Delivery c.params.clkw)) Fault Refusal :=
  match executeWord c.params w s with
  | .next t => .next (t, t.deliveries c)
  | .fault f => .fault f
  | .refused r => .refused r

/-- A stream of words presented to the unit with this configuration, with everything it delivers, in command order
(`60_exceptions.md` R232). -/
def presentWords (c : Configuration) :
    List (CommandWord c.params.clkw) → State → Host.Outcome (State × List (Delivery c.params.clkw)) Fault Refusal
  | [], s => .next (s, [])
  | w :: rest, s =>
    match presentWord c w s with
    | .next (t, sent) =>
      match presentWords c rest t with
      | .next (t', later) => .next (t', sent ++ later)
      | .fault f => .fault f
      | .refused r => .refused r
    | .fault f => .fault f
    | .refused r => .refused r

/-- The fault bits a completed step shows: those of its result, none before the first command. -/
def State.raisedBits (s : State) : FaultBits :=
  match s.result with
  | none => 0
  | some r => r.fault

/-- The debug build, an option beside the default: a step that executes a command raising a fault stops the run ("A
model may offer `stuck` after the first fault as an option equal to the debug build",
`93_implementation_defined.md` U3). DEDUCED, log entry 8. -/
def debugStep (s : State) : Host.Outcome State Fault Refusal :=
  match s.commands, step s with
  | _ :: _, .next t => if t.raisedBits = 0 then .next t else .fault (.assertion t.raisedBits)
  | [], .next t => .next t
  | _, .fault f => .fault f
  | _, .refused r => .refused r

end Sys2Proof.Machine
end

