-- ==== Sys2Proof/Machine/Reference.lean ====
section
/-! DEFINITION. The per-tick reference machine (`95_test_vectors.md` section 4), the "naive per-cycle simulation" that
every arithmetic rule is held to (`00_scope.md` R2(b), `42_advance.md` R147(d)). It is not part of the step: statements
compare the machine with it. -/

namespace Sys2Proof.Machine

/-- The reference machine's fields; `pend` is oldest first. -/
structure RefMachine where
  t : Nat
  count : Half
  latch : Half
  run : Bool
  os : Bool
  cas : Bool
  pend : List (Nat × Control)
  ev : Nat
deriving DecidableEq, Repr

/-- A control change becomes effective. -/
def RefMachine.apply (r : RefMachine) (c : Control) : RefMachine :=
  { r with
    count := if c.load then r.latch else r.count
    run := c.start
    os := c.oneShot
    cas := c.cascade }

/-- The count of a timer after one tick (or one sibling underflow): reload from 0, else one less. -/
def tickedCount (latch count : Half) : Half := if count = 0 then latch else count - 1

/-- The timer shows 0 at an instant it is driven to: an underflow, which stops a one-shot timer. -/
def RefMachine.underflows (r : RefMachine) : RefMachine :=
  { r with ev := r.ev + 1, run := r.run && !r.os }

/-- From clock `t` to clock `t + 1`. -/
def RefMachine.tick (r : RefMachine) : RefMachine :=
  let r1 := { r with count := if r.run && !r.cas then tickedCount r.latch r.count else r.count, t := r.t + 1 }
  let due := r1.pend.filter fun e => e.1 == r1.t
  let r2 := due.foldl (fun q e => q.apply e.2) r1
  let r3 := { r2 with pend := r2.pend.filter fun e => r2.t < e.1 }
  if r3.run && !r3.cas && r3.count == 0 then r3.underflows else r3

/-- `n` ticks. -/
def RefMachine.ticks : Nat → RefMachine → RefMachine
  | 0, r => r
  | n + 1, r => RefMachine.ticks n r.tick

/-- Ticks until the clock is `clk`. -/
def RefMachine.runTo (r : RefMachine) (clk : Nat) : RefMachine := r.ticks (clk - r.t)

/-- The newest pending pair's `START`, or `run`. -/
def RefMachine.topRun (r : RefMachine) : Bool :=
  match r.pend.getLast? with
  | none => r.run
  | some e => e.2.start

/-- A control write at the machine's clock. -/
def RefMachine.controlWrite (r : RefMachine) (c : Control) : RefMachine :=
  let b := r.t + latency Config.params r.topRun c
  { r with pend := (r.pend.filter fun e => e.1 < b) ++ [(b, c)] }

/-- A latch write at the machine's clock, with the idle mirror. -/
def RefMachine.latchWrite (r : RefMachine) (latch : Half) : RefMachine :=
  { r with latch := latch, count := if r.run then r.count else latch }

/-- One sibling underflow. -/
def RefMachine.siblingTick (r : RefMachine) : RefMachine :=
  if r.run && r.cas then
    let r1 := { r with count := tickedCount r.latch r.count }
    if r1.count == 0 then r1.underflows else r1
  else r

/-- `n` sibling underflows. -/
def RefMachine.siblingTicks : Nat → RefMachine → RefMachine
  | 0, r => r
  | n + 1, r => RefMachine.siblingTicks n r.siblingTick

end Sys2Proof.Machine

namespace Sys2Proof
open Machine

/-- The commands the equivalence of section 4 covers, in the forms that raise no abort fault. -/
def Instr.inEquivalence : Instr → Bool
  | .advance _ => true
  | .ackAlarm _ => true
  | .setLatchLo _ _ => true
  | .setLatchHi _ _ => true
  | .setControl _ data => !controlMalformed data
  | .cascadeTick _ _ => true
  | .regRead _ .countLo => true
  | .regRead _ .countHi => true
  | .regRead _ .latchLo => true
  | .regRead _ .latchHi => true
  | .regRead _ .control => true
  | .regRead _ .reserved5 => false
  | .regRead _ .reserved6 => false
  | .regRead _ .reserved7 => false
  | .reset _ => false
  | .valueAt _ => false
  | .regWrite _ _ _ => false
  | .rebase _ => false
  | .snapshot _ => false
  | .restore _ _ => false

end Sys2Proof

namespace Sys2Proof.Machine

/-- The procedure of a command on the reference machine at its clock; reads, `ADVANCE` and `ACK_ALARM` only let the
clock run. -/
def RefMachine.procedure (r : RefMachine) : Instr → RefMachine
  | .setLatchLo _ data => r.latchWrite (withLowByte r.latch data)
  | .setLatchHi _ data => r.latchWrite (withHighByte r.latch data)
  | .setControl _ data => r.controlWrite (decodeControl data)
  | .cascadeTick _ n => RefMachine.siblingTicks n.toNat r
  | .advance _ => r
  | .ackAlarm _ => r
  | .regRead _ _ => r
  | .reset _ => r
  | .valueAt _ => r
  | .regWrite _ _ _ => r
  | .rebase _ => r
  | .snapshot _ => r
  | .restore _ _ => r

/-- A command on the reference machine: ticks to its clock, then its procedure. -/
def RefMachine.perform (r : RefMachine) (i : Instr) : RefMachine := (r.runTo i.clockField).procedure i

end Sys2Proof.Machine
end

