-- ==== Sys2Proof/Safety.lean ====
section
/-! DEFINITION. The invariants of `10_state.md` R23 and R26 and what counts as a safe run, in the terms statements use;
and the relations that compare two units, or a unit with the per-tick reference machine. -/

namespace Sys2Proof.Machine

/-- The cached prediction is the one R22 gives: R23(a), (b), (e). -/
abbrev TimerState.Predicted (S : TimerState) : Prop := S.pred = S.prediction

/-- The bases of the pending entries lie in `LU + 1 .. LU + LAT_RESTART` and strictly increase: R26(a), (c), (d). -/
abbrev TimerUnit.Ordered (p : Params) (u : TimerUnit) : Prop :=
  (∀ E ∈ u.pending, u.lastUpdate < E.basis ∧ E.basis ≤ u.lastUpdate + p.latRestart) ∧
    u.pending.Pairwise (fun E F => E.basis < F.basis)

/-- The current entry is in force at `LU` and normalised: R26(b), (e); a timer that is not phi-driven has `basis = LU`
(R103, step 3 of the source; used by R181). -/
abbrev TimerUnit.Settled (u : TimerUnit) : Prop :=
  u.current.basis ≤ u.lastUpdate ∧
    (u.current.phiDriven = true → u.lastUpdate ≤ u.current.basis + u.current.count.toNat) ∧
    (u.current.phiDriven = false → u.current.basis = u.lastUpdate)

/-- Every pending entry equals `derive` of its predecessor with its own control values: R26(f). -/
abbrev TimerUnit.Derived (u : TimerUnit) : Prop := rederiveAbove u.current u.pending = u.pending

/-- The invariants of a unit, true after every command (R23, R26), with the legal clock R12 keeps and the mirror of
R27: `AAC` is the alarm target. -/
abbrev TimerUnit.Inv (p : Params) (u : TimerUnit) : Prop :=
  (∀ S ∈ u.stack, S.Predicted) ∧ u.Ordered p ∧ u.Settled ∧ u.Derived ∧ u.lastUpdate ≤ p.clkLimit ∧ u.armed = u.target

/-- The invariants of this hardware's unit. -/
abbrev State.Inv (s : State) : Prop := s.unit.Inv Config.params

/-- At most one `UNDERFLOW` with `n >= 1`, then at most one `SCHEDULE` (`30_encoding.md` R91, `60_exceptions.md` R232). -/
def wellOrderedMessages : List Message → Bool
  | [] => true
  | [.underflow n _] => 1 ≤ n
  | [.schedule _] => true
  | [.underflow n _, .schedule _] => 1 ≤ n
  | _ => false

/-- What the outputs of a state look like: its messages are in order, and the fault bits of its result are set in the
sticky register (`60_exceptions.md` R222). -/
abbrev State.OutputsInOrder (s : State) : Prop :=
  wellOrderedMessages s.messages = true ∧ s.raisedBits &&& s.unit.fault = s.raisedBits

/-- A state no command has put a fault into: the run so far kept the owner's contract
(`93_implementation_defined.md` U3). -/
abbrev State.Clean (s : State) : Prop := s.unit.fault = 0

/-- A dead one-shot: running, phi-driven, one-shot, its underflow instant counted as past. Only a `RESTORE` of a record
`SNAPSHOT` never produces makes one (`45_maintenance.md` R183(b)). -/
abbrev TimerUnit.DeadOneShot (u : TimerUnit) : Prop :=
  u.current.phiDriven = true ∧ u.current.oneShot = true ∧ u.current.pred = some u.lastUpdate

/-- The unit shows what the per-tick reference machine shows (`95_test_vectors.md` section 4). -/
abbrev TimerUnit.Tracks (u : TimerUnit) (r : RefMachine) : Prop :=
  r.t = u.lastUpdate ∧ r.count = u.current.valueAt u.lastUpdate ∧ r.latch = u.current.latch ∧
    r.run = u.current.running ∧ r.os = u.current.oneShot ∧ r.cas = u.current.cascade ∧
    r.pend = u.pending.map (fun E => (E.basis, E.control))

/-- Two Timer States that later commands cannot tell apart: all fields equal but `basis` and `load_req`, and `count`
when the timer is phi-driven, where `pred` alone matters (`10_state.md` R24, R34; `45_maintenance.md` R183). -/
abbrev TimerState.SameFuture (S T : TimerState) : Prop :=
  S.pred = T.pred ∧ S.latch = T.latch ∧ S.running = T.running ∧ S.oneShot = T.oneShot ∧ S.cascade = T.cascade ∧
    (S.phiDriven = false → S.count = T.count)

/-- Two units that later commands (other than `REBASE`, whose check looks at `basis`) cannot tell apart. -/
abbrev TimerUnit.SameFuture (u v : TimerUnit) : Prop :=
  u.current.SameFuture v.current ∧ u.pending = v.pending ∧ u.lastUpdate = v.lastUpdate ∧ u.armed = v.armed

/-- The entry that governs clock `q`: the newest of an entry and its successors whose basis is at most `q`
(`41_history_stack.md` R126). -/
def governing (q : Nat) : TimerState → List TimerState → TimerState
  | S, [] => S
  | S, E :: rest => if E.basis ≤ q then governing q E rest else S

/-- `u` is an underflow instant of the timer: of the entry whose window contains it (`42_advance.md` R140). -/
def TimerUnit.instantOfHistory (v : TimerUnit) (u : Nat) : Bool := (governing u v.current v.pending).isInstant u

/-- A message with its clock lowered by `K`; `NEVER` is not a time (`45_maintenance.md` R181). -/
def Message.rebased (K : Nat) : Message → Message
  | .underflow n os => .underflow n os
  | .schedule target => .schedule (target.map (· - K))

/-- A state as it is after a rebase of the whole system by `K`: the unit's clocks and the targets sent are lowered. -/
def State.rebased (s : State) (K : Nat) : State :=
  { s with unit := s.unit.rebased K, messages := s.messages.map (Message.rebased K) }

end Sys2Proof.Machine

namespace Sys2Proof
open Machine

/-- A command with another clock operand; the constant of `REBASE` is no clock operand and stays. -/
def Instr.withClock (c : Nat) : Instr → Instr
  | .reset _ => .reset c
  | .advance _ => .advance c
  | .valueAt _ => .valueAt c
  | .setLatchLo _ d => .setLatchLo c d
  | .setLatchHi _ d => .setLatchHi c d
  | .setControl _ d => .setControl c d
  | .ackAlarm _ => .ackAlarm c
  | .regRead _ rs => .regRead c rs
  | .regWrite _ rs d => .regWrite c rs d
  | .cascadeTick _ n => .cascadeTick c n
  | .rebase k => .rebase k
  | .snapshot _ => .snapshot c
  | .restore _ snap => .restore c snap

/-- A command with its clock operand lowered by `K` (`45_maintenance.md` R181). -/
def Instr.lowered (K : Nat) (i : Instr) : Instr := i.withClock (i.clockField - K)

/-- `REBASE`, the one command without a clock operand. -/
def Instr.isRebase : Instr → Bool
  | .rebase _ => true
  | .reset _ => false
  | .advance _ => false
  | .valueAt _ => false
  | .setLatchLo _ _ => false
  | .setLatchHi _ _ => false
  | .setControl _ _ => false
  | .ackAlarm _ => false
  | .regRead _ _ => false
  | .regWrite _ _ _ => false
  | .cascadeTick _ _ => false
  | .snapshot _ => false
  | .restore _ _ => false

/-- The selects 5 to 7 (`30_encoding.md` R86). -/
def RegSelect.isReserved : RegSelect → Bool
  | .reserved5 => true
  | .reserved6 => true
  | .reserved7 => true
  | .countLo => false
  | .countHi => false
  | .latchLo => false
  | .latchHi => false
  | .control => false

/-- The read-only selects (`30_encoding.md` R86). -/
def RegSelect.isCount : RegSelect → Bool
  | .countLo => true
  | .countHi => true
  | .latchLo => false
  | .latchHi => false
  | .control => false
  | .reserved5 => false
  | .reserved6 => false
  | .reserved7 => false

/-- The commands that update the unit to their clock, and so raise `REGRESS` when it lies below `LU`
(`60_exceptions.md` R220). -/
def Instr.updates : Instr → Bool
  | .advance _ => true
  | .setLatchLo _ _ => true
  | .setLatchHi _ _ => true
  | .setControl _ _ => true
  | .ackAlarm _ => true
  | .regRead _ _ => true
  | .regWrite _ rs _ => !rs.isCount
  | .cascadeTick _ _ => true
  | .snapshot _ => true
  | .reset _ => false
  | .valueAt _ => false
  | .rebase _ => false
  | .restore _ _ => false

/-- The fault of an illegal operand other than the clock (`60_exceptions.md` R220, R221 step 2). -/
def Instr.operandFault : Instr → Option FaultKind
  | .regRead _ rs => if rs.isReserved then some .illOp else none
  | .regWrite _ rs d =>
    if rs.isReserved then some .illOp
    else if rs = .control ∧ controlMalformed d = true then some .badCtrl
    else none
  | .setControl _ d => if controlMalformed d then some .badCtrl else none
  | .restore _ snap => if snapshotMalformed snap then some .badSnap else none
  | .reset _ => none
  | .advance _ => none
  | .valueAt _ => none
  | .setLatchLo _ _ => none
  | .setLatchHi _ _ => none
  | .ackAlarm _ => none
  | .cascadeTick _ _ => none
  | .rebase _ => none
  | .snapshot _ => none

/-- Whether the clock operand (or `K`) is out of range (`60_exceptions.md` R220, `CLKRANGE`). -/
def Instr.clockOutOfRange (p : Params) (i : Instr) (u : TimerUnit) : Bool :=
  if i.isRebase then u.current.basis < i.clockField else p.clkLimit < i.clockField

/-- Whether the command is a `VALUE_AT` at another clock than `LU` (`60_exceptions.md` R220, `STALE`). -/
def Instr.isStale (i : Instr) (u : TimerUnit) : Bool := i == .valueAt i.clockField && i.clockField != u.lastUpdate

/-- The fault bits of a command by the table and the check order of `60_exceptions.md` R220 and R221, on a unit whose
stack does not overflow (`41_history_stack.md` R124). -/
def Instr.expectedFaults (p : Params) (i : Instr) (u : TimerUnit) : FaultBits :=
  match i.operandFault with
  | some k => k.bit
  | none =>
    if i.clockOutOfRange p u then FaultKind.clkRange.bit
    else if i.isStale u then FaultKind.stale.bit
    else if i.updates && i.clockField < u.lastUpdate then FaultKind.regress.bit
    else 0

end Sys2Proof
end

