-- ==== Sys2Proof/Certificates/Slice0/Obligations.lean ====
section
/-! DEFINITION. The statements about the Timer Unit. Each names in its docstring the rule of spec/ it formalises, or the
sections it rests on. `a` is a unit after its update, `t` the state after a command. -/

open Sys2Proof Sys2Proof.Machine

-- ---------------------------------------------------------------- encoding

/-- `30_encoding.md` R80 to R86: no operand bit of any command is dropped by encoding and decoding. -/
def Obligations.EncodedCommandDecodesToItself : Prop :=
  ∀ i : Instr, i.wellFormed = true → decode (encode i) = .ok i

/-- R81, R82: a decoded word encodes again to itself with the unnamed bits of `ARG` cleared, so those bits and no others
are ignored. -/
def Obligations.DecodingReadsOnlyNamedBits : Prop :=
  ∀ (w : Word) (i : Instr), decode w = .ok i →
    i.wellFormed = true ∧ encode i = w &&& (0xFFFFFFFFFF#40 ++ i.argMask)

/-- R83, R89(a): exactly the words with `OP` 0x0D or above are no command. -/
def Obligations.ReservedOpcodesAreExactlyTheRejected : Prop :=
  ∀ w : Word, decode w = .error (.reservedOp (opField (clkw := 32) w)) ↔ 0x0D ≤ (opField (clkw := 32) w).toNat

/-- R80 to R83, R86: which command every word is, its fields as printed there, taken from the word as a number: `OP` from
bit 72, `CLK` bits 71:40, `DATA8` bits 7:0, `RS` bits 10:8, `N16` bits 15:0, `SNAP` bits 39:0. -/
def Obligations.EveryWordIsTheCommandOfTheTable : Prop :=
  ∀ (w : Word) (op clk : Nat), w.toNat / 2 ^ 72 = op → w.toNat / 2 ^ 40 % 2 ^ 32 = clk →
    ∃ rs : RegSelect,
      [RegSelect.countLo, .countHi, .latchLo, .latchHi, .control, .reserved5, .reserved6,
        .reserved7][w.toNat / 2 ^ 8 % 2 ^ 3]? = some rs ∧
      (op = 0x00 → decode w = .ok (.reset clk)) ∧
      (op = 0x01 → decode w = .ok (.advance clk)) ∧
      (op = 0x02 → decode w = .ok (.valueAt clk)) ∧
      (op = 0x03 → decode w = .ok (.setLatchLo clk (BitVec.ofNat 8 w.toNat))) ∧
      (op = 0x04 → decode w = .ok (.setLatchHi clk (BitVec.ofNat 8 w.toNat))) ∧
      (op = 0x05 → decode w = .ok (.setControl clk (BitVec.ofNat 8 w.toNat))) ∧
      (op = 0x06 → decode w = .ok (.ackAlarm clk)) ∧
      (op = 0x07 → decode w = .ok (.regRead clk rs)) ∧
      (op = 0x08 → decode w = .ok (.regWrite clk rs (BitVec.ofNat 8 w.toNat))) ∧
      (op = 0x09 → decode w = .ok (.cascadeTick clk (BitVec.ofNat 16 w.toNat))) ∧
      (op = 0x0A → decode w = .ok (.rebase clk)) ∧
      (op = 0x0B → decode w = .ok (.snapshot clk)) ∧
      (op = 0x0C → decode w = .ok (.restore clk (BitVec.ofNat 40 w.toNat)))

/-- `95_test_vectors.md` section 2.13: a few printed words, one at least of each format. -/
def Obligations.PrintedWordsDecode : Prop :=
  decode 0x00123456780000000000 = .ok (.reset 305419896) ∧
    decode 0x01000000230FFFFFFFFF = .ok (.advance 35) ∧
    decode 0x030000010000000000AB = .ok (.setLatchLo 256 0xAB) ∧
    decode 0x0500000100000000000F = .ok (.setControl 256 0x0F) ∧
    decode 0x07000000010000FFFCFF = .ok (.regRead 1 .control) ∧
    decode 0x08000000010000000380 = .ok (.regWrite 1 .latchHi 0x80) ∧
    decode 0x0900000002000000FFFF = .ok (.cascadeTick 2 0xFFFF) ∧
    decode 0x0A000100000000000000 = .ok (.rebase 65536) ∧
    decode 0x0C000000040B12345678 = .ok (.restore 4 0x0B12345678)

-- ---------------------------------------------------------------- the step

/-- R67, R83: a step takes the next presented word off the stream and runs the command it decodes to. The stream is the
model's own (log entry 1). -/
def Obligations.StepRunsTheDecodedCommand : Prop :=
  ∀ (s : State) (w : Word) (rest : List Word) (i : Instr), s.commands = w :: rest → decode w = .ok i →
    i.wellFormed = true ∧ step s = exec i { s with commands := rest }

/-- R89(a), R222: a word with a reserved `OP` sets `FAULT` bit 3, reports it, and changes nothing else. -/
def Obligations.ReservedOpcodeRaisesIllop : Prop :=
  ∀ (s : State) (w : Word) (rest : List Word), s.commands = w :: rest → 0x0D ≤ (opField (clkw := 32) w).toNat →
    step s = .next
      { unit := { s.unit with fault := s.unit.fault ||| 8#7 }, commands := rest
        result := some { fault := 8#7, n := 0, value := 0 }, messages := [] }

/-- R238, R260: with no command presented the block holds its state. The idle step is the model's (log entry 13). -/
def Obligations.IdleStepHoldsState : Prop :=
  ∀ s : State, s.commands = [] → step s = .next s

/-- R263: every command in every state has an outcome; that the stream of presented commands stays is the model's (log
entry 1). Every step goes on: with a word presented by R263, and with none by the idle step, which R263 does not speak of
and which is the model's (log entry 13, DEDUCED from R238 and R260). -/
def Obligations.EveryCommandCompletes : Prop :=
  (∀ (i : Instr) (s : State), ∃ t r, exec i s = .next t ∧ t.commands = s.commands ∧ t.result = some r) ∧
    ∀ s : State, ∃ t, step s = .next t

-- ---------------------------------------------------------------- power-on and RESET

/-- R35, R261: the state after power-on is `FAULT = 0` and the effect of `RESET 0`, with its message; that no command
has been presented or executed is the model's choice (log entry 3). -/
def Obligations.PowerOnIsResetAtZero : Prop :=
  State.reset.unit.fault = 0 ∧ State.reset.unit.len = 1 ∧
    State.reset.unit.current =
      { basis := 0, pred := none, count := 0xFFFF, latch := 0xFFFF, running := false, oneShot := false,
        cascade := false, loadReq := false } ∧
    State.reset.unit.lastUpdate = 0 ∧ State.reset.unit.armed = none ∧ State.reset.messages = [.schedule none] ∧
    ∀ s : State, s.unit.fault = 0 →
      exec (.reset 0) s =
        .next { State.reset with commands := s.commands, result := some { fault := 0, n := 0, value := 0 } }

/-- `45_maintenance.md` R180, both cases: a legal `RESET` writes everything but `FAULT`, whatever `LU` was, and always
sends `SCHEDULE(NEVER)`; a clock above `CLK_LIMIT` raises `CLKRANGE`. -/
def Obligations.ResetReseatsTheUnit : Prop :=
  ∀ (clk : Nat) (s : State),
    (clk ≤ 4294705151 →
      exec (.reset clk) s = .next
        { unit :=
            { current :=
                { basis := clk, pred := none, count := 0xFFFF, latch := 0xFFFF, running := false, oneShot := false,
                  cascade := false, loadReq := false }
              pending := [], lastUpdate := clk, armed := none, fault := s.unit.fault }
          commands := s.commands
          result := some { fault := 0, n := 0, value := 0 }
          messages := [.schedule none] }) ∧
    (4294705151 < clk →
      exec (.reset clk) s = .next
        { unit := { s.unit with fault := s.unit.fault ||| 32#7 }, commands := s.commands
          result := some { fault := 32#7, n := 0, value := 0 }, messages := [] })

-- ---------------------------------------------------------------- Timer State functions

/-- R102 against R101: the closed formula counts exactly the underflow instants in `(lo, hi]`. -/
def Obligations.CntCountsUnderflowInstants : Prop :=
  ∀ (S : TimerState) (lo hi : Nat), lo ≤ hi →
    S.cnt lo hi = ((Finset.Ioc lo hi).filter fun u => S.isInstant u = true).card

/-- R2(b), R100, R101: a continuous running timer read `k` ticks after its basis shows what `k` single ticks make of its
count. -/
def Obligations.ReadBackIsTickByTick : Prop :=
  ∀ (S : TimerState) (k : Nat), S.Predicted → S.phiDriven = true → S.oneShot = false →
    S.valueAt (S.basis + k) = (tickedCount S.latch)^[k] S.count

/-- R104(a), (c), (d): a projection lies at or before its clock, keeps R22, and projections compose in every field
(`t1 = t2` is idempotence). -/
def Obligations.ProjectionsCompose : Prop :=
  ∀ (S : TimerState) (t1 t2 : Nat), S.Predicted → S.basis ≤ t1 → t1 ≤ t2 →
    (S.proj t1).Predicted ∧ (S.proj t1).basis ≤ t1 ∧ (S.proj t1).proj t2 = S.proj t2

/-- R104(e), (f), (g) and the left half of (b): a projected timer shows the same counts and has the same instants from
its clock on. The right half of (b) is given for `count <= latch` only (log entry 12). -/
def Obligations.ProjectionKeepsTheFuture : Prop :=
  ∀ (S : TimerState) (t : Nat), S.Predicted → S.basis ≤ t →
    (S.oneShot = false → ∀ q, t ≤ q →
      (S.proj t).valueAt q = S.valueAt q ∧ ((S.proj t).isInstant q = S.isInstant q)) ∧
    (S.oneShot = false → ∀ q, q < t → (S.proj t).isInstant q = false) ∧
    (S.oneShot = true → S.phiDriven = true → S.basis + S.count.toNat ≤ t →
      ∀ q, (S.proj t).valueAt q = 0) ∧
    ((S.proj t).phiDriven = true →
      ∃ P, (S.proj t).pred = some P ∧ t ≤ P ∧ (P = t ↔ S.isInstant t = true) ∧
        (S.count ≤ S.latch → P ≤ t + S.latch.toNat) ∧ ((S.proj t).valueAt t).toNat = P - t)

/-- R104(b) and R144 as printed, `t <= pred <= t + latch` with no premise on `count`: false where the latch was lowered
below the count in flight (R23(d), R270), so a refutation is expected (log entry 12). -/
def Obligations.ProjectedPredWithinOnePeriodAsPrinted : Prop :=
  ∀ (S : TimerState) (t P : Nat), S.Predicted → S.basis ≤ t → (S.proj t).phiDriven = true →
    (S.proj t).pred = some P → t ≤ P ∧ P ≤ t + S.latch.toNat

-- ---------------------------------------------------------------- the History Stack

/-- R120: the count a control change starts from is the predecessor's count carried on tick by tick to the effective
clock (a one-shot predecessor stays at 0 after its underflow), or the latch on a reload request; the other fields. -/
def Obligations.DerivedStateStartsWhereThePredecessorIs : Prop :=
  ∀ (S : TimerState) (b : Nat) (c : Control), S.Predicted → S.basis < b →
    (S.derive b c).basis = b ∧ (S.derive b c).latch = S.latch ∧ (S.derive b c).running = c.start ∧
    (S.derive b c).oneShot = c.oneShot ∧ (S.derive b c).cascade = c.cascade ∧ (S.derive b c).loadReq = c.load ∧
    (S.derive b c).Predicted ∧
    (c.load = true → (S.derive b c).count = S.latch) ∧
    (c.load = false → S.phiDriven = false → (S.derive b c).count = S.count) ∧
    (c.load = false → S.phiDriven = true → S.oneShot = false →
      (S.derive b c).count = (tickedCount S.latch)^[b - S.basis] S.count) ∧
    (c.load = false → S.phiDriven = true → S.oneShot = true →
      (S.derive b c).count.toNat = S.basis + S.count.toNat - b)

/-- R120(c), R274: a predecessor that shows 0 at `b`, started without reload on the clock, underflows at `b` itself, and
that underflow is the new state's. -/
def Obligations.StartingFromZeroUnderflowsAtOnce : Prop :=
  ∀ (S : TimerState) (b : Nat) (c : Control), S.Predicted → S.basis < b → (S.proj b).valueAt b = 0 →
    c.load = false → c.start = true → c.cascade = false →
    (S.derive b c).pred = some b ∧ (S.derive b c).cnt (b - 1) b = 1

/-- R121, R124. Where fewer than 3 pending entries have an earlier basis, a push keeps those, discards the others, and
appends the state derived from the top that is left; bases strictly increase again and at most 4 entries are held. Where
the stack is full after the discards, a control write raises `STKOVF` and leaves the stack as it was. -/
def Obligations.PushSupersedesLaterEntries : Prop :=
  (∀ (p : Params) (u : TimerUnit) (b : Nat) (c : Control), u.Inv p → u.lastUpdate < b →
    ((u.pending.filter fun E => E.basis < b).length < 3 →
      u.pushOverflows b = false ∧
      (u.push b c).pending =
        (u.pending.filter fun E => E.basis < b) ++
          [(newest u.current (u.pending.filter fun E => E.basis < b)).derive b c] ∧
      (u.push b c).pending.Pairwise (fun E F => E.basis < F.basis) ∧ (u.push b c).len ≤ 4 ∧
      (u.push b c).current = u.current ∧ (u.push b c).lastUpdate = u.lastUpdate ∧ (u.push b c).armed = u.armed ∧
      (u.push b c).fault = u.fault) ∧
    (3 ≤ (u.pending.filter fun E => E.basis < b).length → u.pushOverflows b = true)) ∧
  ∀ (p : Params) (w : Progress) (c : Control),
    w.unit.pushOverflows (w.unit.lastUpdate + latency p w.unit.top.running c) = true →
    w.writeControl p c =
      { unit := { w.unit with fault := w.unit.fault ||| 4#7 }, n := w.n, os := w.os, raised := w.raised ||| 4#7 }

/-- R124, R225: with legal parameters the stack holds at most `DEPTH` entries and no control write raises `STKOVF`. -/
def Obligations.StackNeverOverflows : Prop :=
  ∀ (p : Params) (u : TimerUnit) (clk : Nat) (data : Byte), p.legal = true → u.Inv p →
    u.len ≤ 4 ∧ (setControlUnit p clk data u).result.fault.getLsbD 2 = false ∧
      (setControlUnit p clk data u).unit.len ≤ 4

-- ---------------------------------------------------------------- advance

/-- `42_advance.md` R140, its net effect: `n` is the number of underflow instants in `(LU, T]`, each taken from the entry
whose window contains it, and `os` says whether one of them was a one-shot entry's. -/
def Obligations.AdvanceCountsEachInstantOnce : Prop :=
  ∀ (p : Params) (u : TimerUnit) (T : Nat), u.Inv p → u.lastUpdate ≤ T →
    (u.advance T).n = ((Finset.Ioc u.lastUpdate T).filter fun x => u.instantOfHistory x = true).card ∧
    ((u.advance T).os = true ↔
      ∃ x, u.lastUpdate < x ∧ x ≤ T ∧ u.instantOfHistory x = true ∧
        (governing x u.current u.pending).oneShot = true)

/-- R142, R144, R145: after an update the entry that governs `T` is current, projected to `T`, and the entries still to
come are pending, unchanged. -/
def Obligations.AdvanceLeavesTheGoverningEntry : Prop :=
  ∀ (p : Params) (u : TimerUnit) (T : Nat), u.Inv p → u.lastUpdate ≤ T →
    (u.advance T).unit =
      { u with
        current := (governing T u.current u.pending).proj T
        pending := u.pending.filter fun E => T < E.basis
        lastUpdate := T } ∧ (u.advance T).raised = 0

/-- R147(a): a second update to the same clock counts nothing and changes nothing. -/
def Obligations.AdvanceTwiceCountsNothing : Prop :=
  ∀ (p : Params) (u : TimerUnit) (T : Nat), u.Inv p → u.lastUpdate ≤ T →
    (u.advance T).unit.advance T = { unit := (u.advance T).unit, n := 0, os := false, raised := 0 }

/-- R147(b): updates compose, in the state and in what they count. -/
def Obligations.AdvancesAdd : Prop :=
  ∀ (p : Params) (u : TimerUnit) (t1 t2 : Nat), u.Inv p → u.lastUpdate ≤ t1 → t1 ≤ t2 →
    ((u.advance t1).unit.advance t2).unit = (u.advance t2).unit ∧
    (u.advance t1).n + ((u.advance t1).unit.advance t2).n = (u.advance t2).n ∧
    ((u.advance t1).os || ((u.advance t1).unit.advance t2).os) = (u.advance t2).os

/-- R147(c): a one-shot timer reports exactly one underflow, however far the update goes, and stays stopped at 0. -/
def Obligations.OneShotStopsExactlyOnce : Prop :=
  ∀ (p : Params) (u : TimerUnit) (P T T' : Nat), u.Inv p → u.pending = [] → u.current.phiDriven = true →
    u.current.oneShot = true → u.current.pred = some P → u.lastUpdate < P → P ≤ T → T ≤ T' →
    (u.advance T).n = 1 ∧ (u.advance T).os = true ∧ (u.advance T).unit.current.running = false ∧
    (u.advance T).unit.current.count = 0 ∧ ((u.advance T).unit.advance T').n = 0 ∧
    ((u.advance T).unit.advance T').unit.current.running = false ∧
    ((u.advance T).unit.advance T').unit.current.count = 0

/-- R147(d): the lazy update equals ticking the reference machine, in what it shows and in the underflows it counts. The
one-shot state of R183(b), which no command of the equivalence makes, is left out. -/
def Obligations.AdvanceMatchesPerTickMachine : Prop :=
  ∀ (p : Params) (u : TimerUnit) (r : RefMachine) (T : Nat), u.Inv p → ¬ u.DeadOneShot → u.Tracks r →
    u.lastUpdate ≤ T →
    (u.advance T).unit.Tracks (r.runTo T) ∧ (r.runTo T).ev = r.ev + (u.advance T).n ∧
      ¬ (u.advance T).unit.DeadOneShot

-- ---------------------------------------------------------------- the commands

/-- R146: a clock above `CLK_LIMIT` raises `CLKRANGE`; what `ADVANCE` reports and leaves at any legal clock: the update,
the re-armed alarm, `UNDERFLOW` before `SCHEDULE`. -/
def Obligations.AdvanceCommandReports : Prop :=
  ∀ (clk : Nat) (s : State),
    (4294705151 < clk →
      exec (.advance clk) s = .next
        { unit := { s.unit with fault := s.unit.fault ||| 32#7 }, commands := s.commands
          result := some { fault := 32#7, n := 0, value := 0 }, messages := [] }) ∧
    (clk ≤ 4294705151 →
      exec (.advance clk) s = .next
        { unit := { (s.unit.advance clk).unit with armed := (s.unit.advance clk).unit.target }
          commands := s.commands
          result := some { fault := (s.unit.advance clk).raised, n := (s.unit.advance clk).n, value := 0 }
          messages :=
            (if 1 ≤ (s.unit.advance clk).n then [.underflow (s.unit.advance clk).n (s.unit.advance clk).os] else []) ++
            (if (s.unit.advance clk).unit.target = (s.unit.advance clk).unit.armed then []
             else [.schedule (s.unit.advance clk).unit.target]) })

/-- `40_timer_state_readback.md` R105, all three cases: `VALUE_AT` answers at `LU` only and changes no state. -/
def Obligations.ValueAtAnswersOnlyAtLastUpdate : Prop :=
  ∀ (clk : Nat) (s : State),
    (4294705151 < clk →
      exec (.valueAt clk) s = .next
        { unit := { s.unit with fault := s.unit.fault ||| 32#7 }, commands := s.commands
          result := some { fault := 32#7, n := 0, value := 0 }, messages := [] }) ∧
    (clk ≤ 4294705151 → clk ≠ s.unit.lastUpdate →
      exec (.valueAt clk) s = .next
        { unit := { s.unit with fault := s.unit.fault ||| 64#7 }, commands := s.commands
          result := some { fault := 64#7, n := 0, value := 0 }, messages := [] }) ∧
    (clk ≤ 4294705151 → clk = s.unit.lastUpdate →
      exec (.valueAt clk) s = .next
        { unit := s.unit, commands := s.commands
          result := some { fault := 0, n := 0, value := (s.unit.current.valueAt clk).setWidth 40 }
          messages := [] })

/-- R150 steps 4 and 5, R159, R202, R230, R232: every command that updates the unit, once its operands are legal, leaves
the alarm registered at the target and reports: `UNDERFLOW` with its `n` and with `os` when an underflow stopped the timer,
then `SCHEDULE` when the target is not the one registered (`ACK_ALARM` consumed the registration). Only sibling ticks add
to the `n` of the update. -/
def Obligations.ClockedCommandsRearmAndReport : Prop :=
  ∀ (i : Instr) (s t : State), i.updates = true → i.operandFault = none → i.clockField ≤ 4294705151 →
    exec i s = .next t →
    t.unit.armed = t.unit.target ∧ t.unit.lastUpdate = max i.clockField s.unit.lastUpdate ∧
    ∃ r, t.result = some r ∧
      ((∀ k, i ≠ .cascadeTick i.clockField k) → r.n = (s.unit.advance i.clockField).n) ∧
      t.messages =
        (if 1 ≤ r.n then
          [.underflow r.n
            ((s.unit.advance i.clockField).os ||
              ((s.unit.advance i.clockField).unit.current.running && !t.unit.current.running))] else []) ++
        (if t.unit.target = (if i = .ackAlarm i.clockField then none else s.unit.armed) then []
         else [.schedule t.unit.target])

/-- R151, R152, R153: a latch byte write in clock order. One byte of the latch in force changes; a stopped timer's count
becomes the whole new latch; nothing else of the current entry changes; pending entries keep basis and control values
and take the new latch. -/
def Obligations.LatchWritesMirrorWhileStopped : Prop :=
  ∀ (clk : Nat) (data : Byte) (s : State), s.Inv → s.unit.lastUpdate ≤ clk → clk ≤ 4294705151 →
    (∃ t, exec (.setLatchLo clk data) s = .next t ∧
      t.unit.current =
        { (s.unit.advance clk).unit.current with
          latch := (s.unit.advance clk).unit.current.latch.extractLsb' 8 8 ++ data
          count := if (s.unit.advance clk).unit.current.running then (s.unit.advance clk).unit.current.count
            else (s.unit.advance clk).unit.current.latch.extractLsb' 8 8 ++ data } ∧
      (∀ E ∈ t.unit.pending, E.latch = t.unit.current.latch) ∧
      t.unit.pending.map (fun E => (E.basis, E.control)) =
        (s.unit.advance clk).unit.pending.map (fun E => (E.basis, E.control)) ∧
      t.unit.lastUpdate = clk ∧ t.unit.armed = t.unit.target ∧ t.unit.fault = s.unit.fault ∧
      t.commands = s.commands ∧ t.result = some { fault := 0, n := (s.unit.advance clk).n, value := 0 }) ∧
    (∃ t, exec (.setLatchHi clk data) s = .next t ∧
      t.unit.current =
        { (s.unit.advance clk).unit.current with
          latch := data ++ (s.unit.advance clk).unit.current.latch.extractLsb' 0 8
          count := if (s.unit.advance clk).unit.current.running then (s.unit.advance clk).unit.current.count
            else data ++ (s.unit.advance clk).unit.current.latch.extractLsb' 0 8 } ∧
      (∀ E ∈ t.unit.pending, E.latch = t.unit.current.latch) ∧
      t.unit.pending.map (fun E => (E.basis, E.control)) =
        (s.unit.advance clk).unit.pending.map (fun E => (E.basis, E.control)) ∧
      t.unit.lastUpdate = clk ∧ t.unit.armed = t.unit.target ∧ t.unit.fault = s.unit.fault ∧
      t.commands = s.commands ∧ t.result = some { fault := 0, n := (s.unit.advance clk).n, value := 0 })

/-- R154, R155, R156: a well-formed control write in clock order pushes the decoded change at `clk + 3` when the newest
entry runs and the byte has `START` and `LOAD`, else at `clk + 2`; the current entry is only updated. -/
def Obligations.ControlWritePushesAtItsLatency : Prop :=
  ∀ (clk : Nat) (data : Byte) (s : State), s.Inv → s.unit.lastUpdate ≤ clk → clk ≤ 4294705151 →
    data &&& 0xF0 = 0 →
    ∃ t b, exec (.setControl clk data) s = .next t ∧
      b = clk + (if (s.unit.advance clk).unit.top.running && data.getLsbD 0 && data.getLsbD 2 then 3 else 2) ∧
      t.unit =
        { (s.unit.advance clk).unit with
          pending :=
            ((s.unit.advance clk).unit.pending.filter fun E => E.basis < b) ++
              [(newest (s.unit.advance clk).unit.current
                  ((s.unit.advance clk).unit.pending.filter fun E => E.basis < b)).derive b
                { start := data.getLsbD 0, oneShot := data.getLsbD 1, load := data.getLsbD 2,
                  cascade := data.getLsbD 3 }]
          armed := t.unit.target } ∧
      t.commands = s.commands ∧ t.result = some { fault := 0, n := (s.unit.advance clk).n, value := 0 }

/-- R155 ("it changes nothing that is visible at clocks before `w + lat`"), R156, `20_memory.md` R70: what of a control
write is invisible before its effective clock, `clk + 3` for a restart and `clk + 2` for any other write: the entry in
force, the live count, and the underflows counted with their `os`. The `CONTROL` read-back and the alarm target are not
among them: they show the write at once (R170(b), R202). -/
def Obligations.CountsIgnoreControlWriteUntilItsLatency : Prop :=
  ∀ (clk q : Nat) (data : Byte) (s t : State), s.Inv → s.unit.lastUpdate ≤ clk → clk ≤ 4294705151 →
    exec (.setControl clk data) s = .next t → t.raisedBits = 0 → clk ≤ q →
    q < clk + (if (s.unit.advance clk).unit.top.running && data.getLsbD 0 && data.getLsbD 2 then 3 else 2) →
    (t.unit.advance q).unit.current = ((s.unit.advance clk).unit.advance q).unit.current ∧
    (t.unit.advance q).unit.current.valueAt q = ((s.unit.advance clk).unit.advance q).unit.current.valueAt q ∧
    (t.unit.advance q).n = ((s.unit.advance clk).unit.advance q).n ∧
    (t.unit.advance q).os = ((s.unit.advance clk).unit.advance q).os

/-- R157: a clock above `CLK_LIMIT` raises `CLKRANGE`; an acknowledgement at any legal clock updates, consumes the old
registration (so a `SCHEDULE` is sent exactly when a new alarm exists) and reports every underflow counted, late or not. -/
def Obligations.AckAlarmCountsAndRearms : Prop :=
  ∀ (clk : Nat) (s : State),
    (4294705151 < clk →
      exec (.ackAlarm clk) s = .next
        { unit := { s.unit with fault := s.unit.fault ||| 32#7 }, commands := s.commands
          result := some { fault := 32#7, n := 0, value := 0 }, messages := [] }) ∧
    (clk ≤ 4294705151 →
      exec (.ackAlarm clk) s = .next
        { unit := { (s.unit.advance clk).unit with armed := (s.unit.advance clk).unit.target }
          commands := s.commands
          result := some { fault := (s.unit.advance clk).raised, n := (s.unit.advance clk).n, value := 0 }
          messages :=
            (if 1 ≤ (s.unit.advance clk).n then [.underflow (s.unit.advance clk).n (s.unit.advance clk).os] else []) ++
            (match (s.unit.advance clk).unit.target with
             | none => []
             | some x => [.schedule (some x)]) })

/-- R158: `CASCADE_TICK clk, k` in clock order does to the entry in force what `k` single sibling underflows do to a
per-tick cascade timer, and adds their underflows to `n`; a timer that is stopped or on the clock drops them. -/
def Obligations.CascadeTickIsRepeatedSiblingTicks : Prop :=
  ∀ (clk : Nat) (k : Half) (s : State) (r : RefMachine), s.Inv → s.unit.lastUpdate ≤ clk → clk ≤ 4294705151 →
    (s.unit.advance clk).unit.Tracks r →
    ∃ t, exec (.cascadeTick clk k) s = .next t ∧
      t.unit.current =
        { (s.unit.advance clk).unit.current with
          count := if r.run && r.cas then (RefMachine.siblingTicks k.toNat r).count
            else (s.unit.advance clk).unit.current.count
          running := (RefMachine.siblingTicks k.toNat r).run } ∧
      t.unit.pending.map (fun E => (E.basis, E.control)) =
        (s.unit.advance clk).unit.pending.map (fun E => (E.basis, E.control)) ∧
      t.unit.lastUpdate = clk ∧ t.unit.armed = t.unit.target ∧ t.unit.fault = s.unit.fault ∧
      t.commands = s.commands ∧
      ∃ res, t.result = some res ∧ res.fault = 0 ∧ res.value = 0 ∧
        res.n + r.ev = (s.unit.advance clk).n + (RefMachine.siblingTicks k.toNat r).ev

/-- `44_register_interface.md` R170, every case: a reserved select raises `ILLOP` whatever the clock, an illegal clock
`CLKRANGE`; else the unit is updated and re-armed, and the byte is that of the register as of the update. -/
def Obligations.RegisterReadReturnsTheLiveByte : Prop :=
  ∀ (clk : Nat) (rs : RegSelect) (s : State),
    (rs.isReserved = true →
      exec (.regRead clk rs) s = .next
        { unit := { s.unit with fault := s.unit.fault ||| 8#7 }, commands := s.commands
          result := some { fault := 8#7, n := 0, value := 0 }, messages := [] }) ∧
    (rs.isReserved = false → 4294705151 < clk →
      exec (.regRead clk rs) s = .next
        { unit := { s.unit with fault := s.unit.fault ||| 32#7 }, commands := s.commands
          result := some { fault := 32#7, n := 0, value := 0 }, messages := [] }) ∧
    (rs.isReserved = false → clk ≤ 4294705151 →
      ∃ b : Byte,
        exec (.regRead clk rs) s = .next
          { unit := { (s.unit.advance clk).unit with armed := (s.unit.advance clk).unit.target }
            commands := s.commands
            result := some
              { fault := (s.unit.advance clk).raised, n := (s.unit.advance clk).n, value := b.setWidth 40 }
            messages :=
              (if 1 ≤ (s.unit.advance clk).n then
                [.underflow (s.unit.advance clk).n (s.unit.advance clk).os] else []) ++
              (if (s.unit.advance clk).unit.target = (s.unit.advance clk).unit.armed then []
               else [.schedule (s.unit.advance clk).unit.target]) } ∧
        (rs = .countLo →
          b = ((s.unit.advance clk).unit.current.valueAt (s.unit.advance clk).unit.lastUpdate).extractLsb' 0 8) ∧
        (rs = .countHi →
          b = ((s.unit.advance clk).unit.current.valueAt (s.unit.advance clk).unit.lastUpdate).extractLsb' 8 8) ∧
        (rs = .latchLo → b = (s.unit.advance clk).unit.current.latch.extractLsb' 0 8) ∧
        (rs = .latchHi → b = (s.unit.advance clk).unit.current.latch.extractLsb' 8 8) ∧
        (rs = .control →
          b = BitVec.ofNat 8
            ((s.unit.advance clk).unit.top.running.toNat + 2 * (s.unit.advance clk).unit.top.oneShot.toNat +
              8 * (s.unit.advance clk).unit.top.cascade.toNat)))

/-- R171, every select: a write to a count register is dropped, `LATCH_LO`, `LATCH_HI` and `CONTROL` are exactly the
Control Protocol commands, a reserved select raises `ILLOP`. -/
def Obligations.RegisterWriteIsTheControlProtocol : Prop :=
  ∀ (clk : Nat) (rs : RegSelect) (data : Byte) (s : State),
    (rs.isCount = true → clk ≤ 4294705151 →
      exec (.regWrite clk rs data) s = .next
        { s with result := some { fault := 0, n := 0, value := 0 }, messages := [] }) ∧
    (rs.isCount = true → 4294705151 < clk →
      exec (.regWrite clk rs data) s = .next
        { unit := { s.unit with fault := s.unit.fault ||| 32#7 }, commands := s.commands
          result := some { fault := 32#7, n := 0, value := 0 }, messages := [] }) ∧
    (rs.isReserved = true →
      exec (.regWrite clk rs data) s = .next
        { unit := { s.unit with fault := s.unit.fault ||| 8#7 }, commands := s.commands
          result := some { fault := 8#7, n := 0, value := 0 }, messages := [] }) ∧
    exec (.regWrite clk .latchLo data) s = exec (.setLatchLo clk data) s ∧
    exec (.regWrite clk .latchHi data) s = exec (.setLatchHi clk data) s ∧
    exec (.regWrite clk .control data) s = exec (.setControl clk data) s

/-- R64, R172: reading a register again at the same clock returns the same byte, counts nothing, sends nothing and
changes nothing. -/
def Obligations.RepeatedReadChangesNothing : Prop :=
  ∀ (clk : Nat) (rs : RegSelect) (s t : State), s.Inv → s.unit.lastUpdate ≤ clk → clk ≤ 4294705151 →
    rs.isReserved = false → exec (.regRead clk rs) s = .next t →
    ∃ r, t.result = some r ∧
      exec (.regRead clk rs) t = .next { t with result := some { r with n := 0 }, messages := [] }

/-- R181: a legal `REBASE` lowers every stored clock by `K`, `NEVER` stays, everything else stays, nothing is sent; a `K`
above the basis of the current entry raises `CLKRANGE`. -/
def Obligations.RebaseLowersEveryClock : Prop :=
  ∀ (K : Nat) (s : State),
    (K ≤ s.unit.current.basis →
      ∃ t, exec (.rebase K) s = .next t ∧
        t.unit.stack = s.unit.stack.map (fun S => { S with basis := S.basis - K, pred := S.pred.map (· - K) }) ∧
        t.unit.lastUpdate = s.unit.lastUpdate - K ∧ t.unit.armed = s.unit.armed.map (· - K) ∧
        t.unit.fault = s.unit.fault ∧ t.commands = s.commands ∧
        t.result = some { fault := 0, n := 0, value := 0 } ∧ t.messages = []) ∧
    (s.unit.current.basis < K →
      exec (.rebase K) s = .next
        { unit := { s.unit with fault := s.unit.fault ||| 32#7 }, commands := s.commands
          result := some { fault := 32#7, n := 0, value := 0 }, messages := [] })

/-- R181, R275: the bound the owner can compute, `K <= LU - 65535`, is always legal. -/
def Obligations.OwnersRebaseBoundIsLegal : Prop :=
  ∀ (K : Nat) (s : State), s.Inv → K + 65535 ≤ s.unit.lastUpdate →
    ∃ t, exec (.rebase K) s = .next t ∧ t.unit = s.unit.rebased K ∧
      t.result = some { fault := 0, n := 0, value := 0 }

/-- R181, "Clock rebase transparency", one command at a time: after a rebase of the whole system a command with its clock
lowered by `K` has the same result and the same messages, their targets lowered by `K`, and leaves the rebased state. -/
def Obligations.RebaseIsTransparent : Prop :=
  ∀ (K : Nat) (i : Instr) (s t : State), s.Inv → K ≤ s.unit.current.basis → i.isRebase = false →
    K ≤ i.clockField → i.clockField ≤ 4294705151 → exec i s = .next t →
    exec (i.lowered K) (s.rebased K) = .next (t.rebased K)

/-- R182, R87, R88: a snapshot in clock order is an update whose result holds latch, live count and modes of the current
entry, with 0 in bit 34 and bits 39:36. -/
def Obligations.SnapshotRecordsTheLiveEntry : Prop :=
  ∀ (clk : Nat) (s : State), s.Inv → s.unit.lastUpdate ≤ clk → clk ≤ 4294705151 →
    ∃ t v, exec (.snapshot clk) s = .next t ∧
      t.unit = { (s.unit.advance clk).unit with armed := (s.unit.advance clk).unit.target } ∧
      t.commands = s.commands ∧ t.result = some { fault := 0, n := (s.unit.advance clk).n, value := v } ∧
      v.extractLsb' 0 16 = t.unit.current.latch ∧ v.extractLsb' 16 16 = t.unit.current.valueAt clk ∧
      v.getLsbD 32 = t.unit.current.running ∧ v.getLsbD 33 = t.unit.current.oneShot ∧ v.getLsbD 34 = false ∧
      v.getLsbD 35 = t.unit.current.cascade ∧ v.extractLsb' 36 4 = 0

/-- R183: a restore builds one entry from the record at its clock, in any state, and always sends `SCHEDULE`: the
restored underflow instant, the one a period later when that instant is the clock itself (nothing for a one-shot), or
`NEVER`; a malformed record raises `BADSNAP` before the clock is checked. -/
def Obligations.RestoreBuildsOneEntry : Prop :=
  ∀ (clk : Nat) (snap : Arg) (s : State),
    (snap &&& 0xF400000000 ≠ 0 →
      exec (.restore clk snap) s = .next
        { unit := { s.unit with fault := s.unit.fault ||| 16#7 }, commands := s.commands
          result := some { fault := 16#7, n := 0, value := 0 }, messages := [] }) ∧
    (snap &&& 0xF400000000 = 0 → 4294705151 < clk →
      exec (.restore clk snap) s = .next
        { unit := { s.unit with fault := s.unit.fault ||| 32#7 }, commands := s.commands
          result := some { fault := 32#7, n := 0, value := 0 }, messages := [] }) ∧
    (snap &&& 0xF400000000 = 0 → clk ≤ 4294705151 →
      ∃ S x,
        S =
          { basis := clk
            pred := if snap.getLsbD 32 && !snap.getLsbD 35 then some (clk + (snap.extractLsb' 16 16).toNat) else none
            count := snap.extractLsb' 16 16, latch := snap.extractLsb' 0 16, running := snap.getLsbD 32
            oneShot := snap.getLsbD 33, cascade := snap.getLsbD 35, loadReq := false } ∧
        x = (if S.pred = some clk then
              (if snap.getLsbD 33 then none else some (clk + (snap.extractLsb' 0 16).toNat + 1))
             else S.pred) ∧
        exec (.restore clk snap) s = .next
          { unit := { current := S, pending := [], lastUpdate := clk, armed := x, fault := s.unit.fault }
            commands := s.commands
            result := some { fault := 0, n := 0, value := 0 }
            messages := [.schedule x] })

/-- R183, "Round-trip persistence": a record taken with no entry pending restores, on any unit, an entry with the same
future, and the alarm of the original is registered. -/
def Obligations.SnapshotThenRestoreKeepsTheFuture : Prop :=
  ∀ (clk : Nat) (s s' t t' : State) (r : Result), s.Inv → s.unit.lastUpdate ≤ clk → clk ≤ 4294705151 →
    exec (.snapshot clk) s = .next t → t.unit.pending = [] → t.result = some r →
    exec (.restore clk r.value) s' = .next t' →
    t'.unit.SameFuture t.unit ∧ t'.messages = [.schedule t.unit.armed] ∧ t'.raisedBits = 0

/-- `10_state.md` R34, `45_maintenance.md` R183: two units that agree in all but `basis` (and `count`, where `pred` holds
it) and `load_req` of the current entry give the same results and messages on every command but `REBASE`, and go on so. -/
def Obligations.SameFutureIsUnobservable : Prop :=
  ∀ (i : Instr) (s1 s2 t1 t2 : State), s1.Inv → s2.Inv → s1.unit.SameFuture s2.unit → i.isRebase = false →
    exec i s1 = .next t1 → exec i s2 = .next t2 →
    t1.result = t2.result ∧ t1.messages = t2.messages ∧ t1.unit.SameFuture t2.unit

-- ---------------------------------------------------------------- the alarm

/-- `46_alarm_scheduler.md` R201(c): the target is the smallest clock after `LU` at which an update would report an
underflow; `NEVER` when no update ever would. -/
def Obligations.TargetIsTheNextUnderflow : Prop :=
  ∀ (p : Params) (u : TimerUnit), u.Inv p →
    (∀ x, u.target = some x →
      u.lastUpdate < x ∧ 1 ≤ (u.advance x).n ∧ ∀ y, u.lastUpdate ≤ y → y < x → (u.advance y).n = 0) ∧
    (u.target = none → ∀ y, u.lastUpdate ≤ y → (u.advance y).n = 0)

/-- R201(a), (b): an alarm lies strictly after `LU` and at most `LAT_RESTART + 65535 + 65536` ticks after it. -/
def Obligations.TargetIsBounded : Prop :=
  ∀ (p : Params) (u : TimerUnit) (x : Nat), u.Inv p → u.target = some x →
    u.lastUpdate < x ∧ x ≤ u.lastUpdate + p.latRestart + 65535 + 65536

/-- `00_scope.md` R12: in a unit that meets the invariants every stored clock is below `NEVER`, so a `CLKW`-bit register
holds it. -/
def Obligations.StoredClocksFitTheirRegisters : Prop :=
  ∀ (p : Params) (u : TimerUnit), p.legal = true → u.Inv p →
    u.lastUpdate < p.never ∧ (∀ x, u.armed = some x → x < p.never) ∧
    ∀ S ∈ u.stack, S.basis < p.never ∧ ∀ P, S.pred = some P → P < p.never

-- ---------------------------------------------------------------- faults

/-- R29, R222: a command ORs the fault bits of its own result into `FAULT` and clears none. -/
def Obligations.FaultBitsAreSticky : Prop :=
  ∀ (i : Instr) (s t : State), exec i s = .next t →
    t.unit.fault = s.unit.fault ||| t.raisedBits

/-- R222: a command that raises an abort-class fault changes nothing but that bit, returns 0 and sends nothing. -/
def Obligations.AbortChangesNothingElse : Prop :=
  ∀ (i : Instr) (s t : State), exec i s = .next t → t.raisedBits &&& 0b1111010#7 ≠ 0 →
    ∃ k : FaultKind, k.aborts = true ∧
      t = { unit := { s.unit with fault := s.unit.fault ||| k.bit }, commands := s.commands
            result := some { fault := k.bit, n := 0, value := 0 }, messages := [] }

/-- R220, R221: every command raises exactly the faults of the table, by the order of checks. -/
def Obligations.FaultsFollowTheTable : Prop :=
  ∀ (i : Instr) (s t : State), s.Inv → exec i s = .next t →
    t.raisedBits = i.expectedFaults Config.params s.unit

/-- R141, R224: a command with a clock below `LU` does what it does at `LU`, and sets `REGRESS`. -/
def Obligations.RegressingCommandRunsAtLastUpdate : Prop :=
  ∀ (i : Instr) (s t : State), s.Inv → i.updates = true → i.operandFault = none →
    i.clockField < s.unit.lastUpdate → exec (i.withClock s.unit.lastUpdate) s = .next t →
    ∃ r, t.result = some r ∧
      exec i s = .next
        { t with unit := { t.unit with fault := t.unit.fault ||| 1#7 }
                 result := some { r with fault := r.fault ||| 1#7 } }

-- ---------------------------------------------------------------- invariants

/-- `10_state.md` R23, R26: the invariants hold after every step from every state that meets them, whatever is presented. -/
def Obligations.StepKeepsTheUnitInvariants : Prop :=
  ∀ s t : State, s.Inv → step s = .next t → t.Inv

/-- R26, R35: the state after power-on meets the invariants, its outputs are in order, and no fault is recorded. -/
def Obligations.PowerOnMeetsTheInvariants : Prop :=
  State.reset.Inv ∧ State.reset.OutputsInOrder ∧ State.reset.Clean

/-- R91, R232, R222, R8: after every step at most one `UNDERFLOW` (with `n >= 1`) and then at most one `SCHEDULE` is out,
and the bits of the result are set in `FAULT`; whatever the configuration of the unit, an `UNDERFLOW` is delivered to its
sink and a `SCHEDULE` with its token. -/
def Obligations.StepKeepsOutputsInOrder : Prop :=
  ∀ s t : State, s.OutputsInOrder → step s = .next t →
    t.OutputsInOrder ∧
    ∀ (c : Configuration), ∀ d ∈ t.deliveries c,
      (∃ n os, 1 ≤ n ∧ .underflow n os ∈ t.messages ∧ d = .toSink c.interruptSink n os) ∨
      (∃ target, .schedule target ∈ t.messages ∧
        d = .toScheduler c.callbackToken (c.params.clockBits target))

/-- R32, R141: no command but `RESET`, `RESTORE` and `REBASE` moves `LU` back. -/
def Obligations.LastUpdateNeverDecreases : Prop :=
  ∀ (i : Instr) (s t : State), exec i s = .next t →
    (match i with
      | .reset _ | .restore _ _ | .rebase _ => False
      | _ => True) →
    s.unit.lastUpdate ≤ t.unit.lastUpdate

/-- R30, R153: reads, updates, control writes, sibling ticks, snapshots and rebases leave the latch in force unchanged. -/
def Obligations.LatchChangesOnlyByLatchWrites : Prop :=
  ∀ (i : Instr) (s t : State), s.Inv → exec i s = .next t →
    (match i with
      | .advance _ | .valueAt _ | .setControl _ _ | .ackAlarm _ | .regRead _ _ | .cascadeTick _ _ | .rebase _
      | .snapshot _ => True
      | .regWrite _ rs _ => rs.isCount = true ∨ rs = .control
      | .reset _ | .setLatchLo _ _ | .setLatchHi _ _ | .restore _ _ => False) →
    t.unit.current.latch = s.unit.current.latch

/-- `95_test_vectors.md` section 4, (1) and (2), for every command it covers, at any clock in order: the unit goes on
showing what the per-tick reference machine shows, and its `n` is that machine's underflows. -/
def Obligations.CommandsMatchPerTickMachine : Prop :=
  ∀ (i : Instr) (s : State) (r : RefMachine), s.Inv → ¬ s.unit.DeadOneShot → s.unit.Tracks r →
    i.inEquivalence = true → s.unit.lastUpdate ≤ i.clockField → i.clockField ≤ 4294705151 →
    ∃ t res, exec i s = .next t ∧ t.result = some res ∧ t.unit.Tracks (r.perform i) ∧
      (r.perform i).ev = r.ev + res.n ∧ ¬ t.unit.DeadOneShot

/-- `95_test_vectors.md` section 4, (3): the registered alarm is the smallest later clock at which the per-tick reference
machine, only ticked, counts an underflow; with no alarm it never counts one. -/
def Obligations.AlarmIsTheTickMachinesNextUnderflow : Prop :=
  ∀ (p : Params) (u : TimerUnit) (r : RefMachine), u.Inv p → ¬ u.DeadOneShot → u.Tracks r →
    (∀ x, u.armed = some x →
      u.lastUpdate < x ∧ r.ev < (r.runTo x).ev ∧ ∀ y, y < x → (r.runTo y).ev = r.ev) ∧
    (u.armed = none → ∀ y, (r.runTo y).ev = r.ev)

-- ---------------------------------------------------------------- the parameters

/-- R6: the host's machine is the machine of every `Params` taken at the defaults: its `exec`, its `step` on a presented
word, and its word width. -/
def Obligations.HostMachineTakesTheDefaults : Prop :=
  (Config.params.clkw = 32 ∧ Config.params.clkLimit = 2 ^ 32 - 1 - 2 ^ 18 ∧ Config.params.latSS = 2 ∧
    Config.params.latRestart = 3) ∧
  (∀ (i : Instr) (s : State), exec i s = execAt Config.params i s) ∧
    ∀ (s : State) (w : Word) (rest : List Word), s.commands = w :: rest →
      step s = executeWord Config.params w { s with commands := rest }

/-- R6, R26: at every legal choice of the parameters every word of that machine's width, from every unit that meets the
invariants, completes and leaves a unit that meets them. -/
def Obligations.EveryLegalMachineKeepsTheInvariants : Prop :=
  ∀ (p : Params) (w : CommandWord p.clkw) (s : State), p.legal = true → s.unit.Inv p →
    ∃ t, executeWord p w s = .next t ∧ t.unit.Inv p
end

