-- ==== Sys2Proof/Laws/State.lean ====
section
/-! SUPPORT. One lemma per field per record update: what each update of a Timer State, a unit, a command under way and
the whole state leaves in every field. -/

namespace Sys2Proof.Machine

section TimerStateUpdates
variable (S : TimerState) (b t : Nat) (c : Control) (K : Nat) (L : Half) (clk : Nat) (snap : Arg)

@[simp] theorem TimerState.mkpred_basis : S.mkpred.basis = S.basis := rfl
@[simp] theorem TimerState.mkpred_pred : S.mkpred.pred = S.prediction := rfl
@[simp] theorem TimerState.mkpred_count : S.mkpred.count = S.count := rfl
@[simp] theorem TimerState.mkpred_latch : S.mkpred.latch = S.latch := rfl
@[simp] theorem TimerState.mkpred_running : S.mkpred.running = S.running := rfl
@[simp] theorem TimerState.mkpred_oneShot : S.mkpred.oneShot = S.oneShot := rfl
@[simp] theorem TimerState.mkpred_cascade : S.mkpred.cascade = S.cascade := rfl
@[simp] theorem TimerState.mkpred_loadReq : S.mkpred.loadReq = S.loadReq := rfl
@[simp] theorem TimerState.mkpred_prediction : S.mkpred.prediction = S.prediction := rfl

@[simp] theorem TimerState.derive_basis : (S.derive b c).basis = b := rfl
@[simp] theorem TimerState.derive_running : (S.derive b c).running = c.start := rfl
@[simp] theorem TimerState.derive_oneShot : (S.derive b c).oneShot = c.oneShot := rfl
@[simp] theorem TimerState.derive_cascade : (S.derive b c).cascade = c.cascade := rfl
@[simp] theorem TimerState.derive_loadReq : (S.derive b c).loadReq = c.load := rfl
@[simp] theorem TimerState.derive_control : (S.derive b c).control = c := rfl
@[simp] theorem TimerState.derive_count :
    (S.derive b c).count = if c.load then (S.proj b).latch else (S.proj b).valueAt b := rfl

@[simp] theorem TimerState.atReset_basis : (TimerState.atReset clk).basis = clk := rfl
@[simp] theorem TimerState.atReset_pred : (TimerState.atReset clk).pred = none := rfl
@[simp] theorem TimerState.atReset_running : (TimerState.atReset clk).running = false := rfl
@[simp] theorem TimerState.atReset_phiDriven : (TimerState.atReset clk).phiDriven = false := rfl

@[simp] theorem TimerState.ofRecord_basis : (TimerState.ofRecord clk snap).basis = clk := rfl
@[simp] theorem TimerState.ofRecord_latch : (TimerState.ofRecord clk snap).latch = snapLatch snap := rfl
@[simp] theorem TimerState.ofRecord_count : (TimerState.ofRecord clk snap).count = snapCount snap := rfl
@[simp] theorem TimerState.ofRecord_running : (TimerState.ofRecord clk snap).running = snap.getLsbD 32 := rfl
@[simp] theorem TimerState.ofRecord_oneShot : (TimerState.ofRecord clk snap).oneShot = snap.getLsbD 33 := rfl
@[simp] theorem TimerState.ofRecord_cascade : (TimerState.ofRecord clk snap).cascade = snap.getLsbD 35 := rfl

@[simp] theorem TimerState.rebased_basis : (S.rebased K).basis = S.basis - K := rfl
@[simp] theorem TimerState.rebased_pred : (S.rebased K).pred = S.pred.map (· - K) := rfl
@[simp] theorem TimerState.rebased_count : (S.rebased K).count = S.count := rfl
@[simp] theorem TimerState.rebased_latch : (S.rebased K).latch = S.latch := rfl
@[simp] theorem TimerState.rebased_running : (S.rebased K).running = S.running := rfl
@[simp] theorem TimerState.rebased_oneShot : (S.rebased K).oneShot = S.oneShot := rfl
@[simp] theorem TimerState.rebased_cascade : (S.rebased K).cascade = S.cascade := rfl
@[simp] theorem TimerState.rebased_loadReq : (S.rebased K).loadReq = S.loadReq := rfl
@[simp] theorem TimerState.rebased_phiDriven : (S.rebased K).phiDriven = S.phiDriven := rfl
@[simp] theorem TimerState.rebased_period : (S.rebased K).period = S.period := rfl
@[simp] theorem TimerState.rebased_control : (S.rebased K).control = S.control := rfl

@[simp] theorem TimerState.withLatch_basis : (S.withLatch L).basis = S.basis := rfl
@[simp] theorem TimerState.withLatch_latch : (S.withLatch L).latch = L := rfl
@[simp] theorem TimerState.withLatch_count : (S.withLatch L).count = if S.running then S.count else L := rfl
@[simp] theorem TimerState.withLatch_running : (S.withLatch L).running = S.running := rfl
@[simp] theorem TimerState.withLatch_oneShot : (S.withLatch L).oneShot = S.oneShot := rfl
@[simp] theorem TimerState.withLatch_cascade : (S.withLatch L).cascade = S.cascade := rfl
@[simp] theorem TimerState.withLatch_loadReq : (S.withLatch L).loadReq = S.loadReq := rfl

end TimerStateUpdates

section UnitUpdates
variable (u : TimerUnit) (k : FaultKind) (b : Nat) (c : Control) (K : Nat)

@[simp] theorem TimerUnit.raise_current : (u.raise k).current = u.current := rfl
@[simp] theorem TimerUnit.raise_pending : (u.raise k).pending = u.pending := rfl
@[simp] theorem TimerUnit.raise_lastUpdate : (u.raise k).lastUpdate = u.lastUpdate := rfl
@[simp] theorem TimerUnit.raise_armed : (u.raise k).armed = u.armed := rfl
@[simp] theorem TimerUnit.raise_fault : (u.raise k).fault = u.fault ||| k.bit := rfl
@[simp] theorem TimerUnit.raise_target : (u.raise k).target = u.target := rfl

@[simp] theorem TimerUnit.rearm_current : u.rearm.current = u.current := rfl
@[simp] theorem TimerUnit.rearm_pending : u.rearm.pending = u.pending := rfl
@[simp] theorem TimerUnit.rearm_lastUpdate : u.rearm.lastUpdate = u.lastUpdate := rfl
@[simp] theorem TimerUnit.rearm_armed : u.rearm.armed = u.target := rfl
@[simp] theorem TimerUnit.rearm_fault : u.rearm.fault = u.fault := rfl
@[simp] theorem TimerUnit.rearm_target : u.rearm.target = u.target := rfl

@[simp] theorem TimerUnit.push_current : (u.push b c).current = u.current := rfl
@[simp] theorem TimerUnit.push_lastUpdate : (u.push b c).lastUpdate = u.lastUpdate := rfl
@[simp] theorem TimerUnit.push_armed : (u.push b c).armed = u.armed := rfl
@[simp] theorem TimerUnit.push_fault : (u.push b c).fault = u.fault := rfl

@[simp] theorem TimerUnit.rederive_current : u.rederive.current = u.current := rfl
@[simp] theorem TimerUnit.rederive_pending : u.rederive.pending = rederiveAbove u.current u.pending := rfl
@[simp] theorem TimerUnit.rederive_lastUpdate : u.rederive.lastUpdate = u.lastUpdate := rfl
@[simp] theorem TimerUnit.rederive_armed : u.rederive.armed = u.armed := rfl
@[simp] theorem TimerUnit.rederive_fault : u.rederive.fault = u.fault := rfl

@[simp] theorem TimerUnit.rebased_current : (u.rebased K).current = u.current.rebased K := rfl
@[simp] theorem TimerUnit.rebased_pending : (u.rebased K).pending = u.pending.map (·.rebased K) := rfl
@[simp] theorem TimerUnit.rebased_lastUpdate : (u.rebased K).lastUpdate = u.lastUpdate - K := rfl
@[simp] theorem TimerUnit.rebased_armed : (u.rebased K).armed = u.armed.map (· - K) := rfl
@[simp] theorem TimerUnit.rebased_fault : (u.rebased K).fault = u.fault := rfl

@[simp] theorem TimerUnit.finishForced_unit : u.finishForced.unit = u.rearm := rfl
@[simp] theorem TimerUnit.finishForced_messages : u.finishForced.messages = [.schedule u.target] := rfl

@[simp] theorem abort_unit : (abort k u).unit = u.raise k := rfl
@[simp] theorem abort_result : (abort k u).result = { fault := k.bit, n := 0, value := 0 } := rfl
@[simp] theorem abort_messages : (abort k u).messages = [] := rfl

end UnitUpdates

section ProgressUpdates
variable (w : Progress) (k : FaultKind) (value : TimerUnit → Arg)

@[simp] theorem Progress.raise_unit : (w.raise k).unit = w.unit.raise k := rfl
@[simp] theorem Progress.raise_n : (w.raise k).n = w.n := rfl
@[simp] theorem Progress.raise_os : (w.raise k).os = w.os := rfl
@[simp] theorem Progress.raise_raised : (w.raise k).raised = w.raised ||| k.bit := rfl

@[simp] theorem Progress.finish_unit : (w.finish value).unit = w.unit.rearm := rfl
@[simp] theorem Progress.finish_fault : (w.finish value).result.fault = w.raised := rfl
@[simp] theorem Progress.finish_n : (w.finish value).result.n = w.n := rfl
@[simp] theorem Progress.finish_value : (w.finish value).result.value = value w.unit := rfl
@[simp] theorem Progress.finish_messages :
    (w.finish value).messages = underflowMessages w.n w.os ++ w.unit.rearmMessages := rfl

end ProgressUpdates

section StateUpdates
variable (s : State) (c : Completion) (nbits w K : Nat)

@[simp] theorem State.complete_unit : (s.complete c).unit = c.unit := rfl
@[simp] theorem State.complete_commands : (s.complete c).commands = s.commands := rfl
@[simp] theorem State.complete_result : (s.complete c).result = some c.result := rfl
@[simp] theorem State.complete_messages : (s.complete c).messages = c.messages := rfl
@[simp] theorem State.complete_raisedBits : (s.complete c).raisedBits = c.result.fault := rfl

@[simp] theorem State.withFetchWord_unit : (s.withFetchWord nbits w).unit = s.unit := rfl
@[simp] theorem State.withFetchWord_commands :
    (s.withFetchWord nbits w).commands = wordOfBits nbits w :: s.commands := rfl
@[simp] theorem State.withFetchWord_result : (s.withFetchWord nbits w).result = s.result := rfl
@[simp] theorem State.withFetchWord_messages : (s.withFetchWord nbits w).messages = s.messages := rfl

@[simp] theorem State.rebased_unit : (s.rebased K).unit = s.unit.rebased K := rfl
@[simp] theorem State.rebased_commands : (s.rebased K).commands = s.commands := rfl
@[simp] theorem State.rebased_result : (s.rebased K).result = s.result := rfl

end StateUpdates

end Sys2Proof.Machine
end

