-- ==== Sys2Proof/Laws/Readback.lean ====
section
/-! SUPPORT. What each pure function on a Timer State can answer: one lemma per case of its rule, and the projection's
cases together. -/

namespace Sys2Proof.Machine

theorem TimerState.period_pos (S : TimerState) : 0 < S.period := Nat.succ_pos _

theorem TimerState.prediction_of_phiDriven {S : TimerState} (h : S.phiDriven = true) :
    S.prediction = some (S.basis + S.count.toNat) := by simp [TimerState.prediction, h]

theorem TimerState.prediction_of_not_phiDriven {S : TimerState} (h : S.phiDriven = false) : S.prediction = none := by
  simp [TimerState.prediction, h]

theorem TimerState.valueAt_idle {S : TimerState} (h : S.phiDriven = false) (q : Nat) : S.valueAt q = S.count := by
  simp [TimerState.valueAt, h]

theorem TimerState.valueAt_before {S : TimerState} {P q : Nat} (h : S.phiDriven = true) (hP : S.pred = some P)
    (hq : q ≤ P) : S.valueAt q = BitVec.ofNat 16 (P - q) := by simp [TimerState.valueAt, h, hP, hq]

theorem TimerState.valueAt_wrapped {S : TimerState} {P q : Nat} (h : S.phiDriven = true) (hP : S.pred = some P)
    (hq : P < q) : S.valueAt q = BitVec.ofNat 16 (S.latch.toNat - (q - P - 1) % S.period) := by
  simp [TimerState.valueAt, h, hP, Nat.not_le.mpr hq]

theorem TimerState.cnt_idle {S : TimerState} (h : S.phiDriven = false) (lo hi : Nat) : S.cnt lo hi = 0 := by
  simp [TimerState.cnt, h]

theorem TimerState.cnt_early {S : TimerState} {P lo hi : Nat} (hP : S.pred = some P) (hhi : hi < P) :
    S.cnt lo hi = 0 := by simp [TimerState.cnt, hP, hhi]

theorem TimerState.cnt_oneShot {S : TimerState} {P lo hi : Nat} (h : S.phiDriven = true) (ho : S.oneShot = true)
    (hP : S.pred = some P) (hhi : P ≤ hi) : S.cnt lo hi = if lo < P then 1 else 0 := by
  simp [TimerState.cnt, h, ho, hP, Nat.not_lt.mpr hhi]

theorem TimerState.cnt_continuous {S : TimerState} {P lo hi : Nat} (h : S.phiDriven = true)
    (ho : S.oneShot = false) (hP : S.pred = some P) (hhi : P ≤ hi) :
    S.cnt lo hi = (hi - P) / S.period + 1 - if lo < P then 0 else (lo - P) / S.period + 1 := by
  simp [TimerState.cnt, h, ho, hP, Nat.not_lt.mpr hhi]

theorem TimerState.isInstant_idle {S : TimerState} (h : S.phiDriven = false) (u : Nat) : S.isInstant u = false := by
  simp [TimerState.isInstant, h]

theorem TimerState.isInstant_oneShot {S : TimerState} {P : Nat} (h : S.phiDriven = true) (ho : S.oneShot = true)
    (hP : S.pred = some P) (u : Nat) : S.isInstant u = true ↔ u = P := by simp [TimerState.isInstant, h, ho, hP]

theorem TimerState.isInstant_continuous {S : TimerState} {P : Nat} (h : S.phiDriven = true)
    (ho : S.oneShot = false) (hP : S.pred = some P) (u : Nat) :
    S.isInstant u = true ↔ P ≤ u ∧ (u - P) % S.period = 0 := by simp [TimerState.isInstant, h, ho, hP]

/-- A projection never touches latch, mode flags other than `running`, or `load_req` (`40_timer_state_readback.md`
R103). -/
theorem TimerState.proj_keeps (S : TimerState) (t : Nat) :
    (S.proj t).latch = S.latch ∧ (S.proj t).oneShot = S.oneShot ∧ (S.proj t).cascade = S.cascade ∧
      (S.proj t).loadReq = S.loadReq := by
  unfold TimerState.proj
  split
  · split
    · exact ⟨rfl, rfl, rfl, rfl⟩
    · split
      · exact ⟨rfl, rfl, rfl, rfl⟩
      · split
        · exact ⟨rfl, rfl, rfl, rfl⟩
        · dsimp only
          split
          · exact ⟨rfl, rfl, rfl, rfl⟩
          · exact ⟨rfl, rfl, rfl, rfl⟩
  · exact ⟨rfl, rfl, rfl, rfl⟩

@[simp] theorem TimerState.proj_latch (S : TimerState) (t : Nat) : (S.proj t).latch = S.latch := (S.proj_keeps t).1

@[simp] theorem TimerState.proj_oneShot (S : TimerState) (t : Nat) : (S.proj t).oneShot = S.oneShot :=
  (S.proj_keeps t).2.1

@[simp] theorem TimerState.proj_cascade (S : TimerState) (t : Nat) : (S.proj t).cascade = S.cascade :=
  (S.proj_keeps t).2.2.1

@[simp] theorem TimerState.proj_loadReq (S : TimerState) (t : Nat) : (S.proj t).loadReq = S.loadReq :=
  (S.proj_keeps t).2.2.2

@[simp] theorem TimerState.derive_latch (S : TimerState) (b : Nat) (c : Control) : (S.derive b c).latch = S.latch :=
  S.proj_latch b

theorem TimerState.proj_idle {S : TimerState} (h : S.phiDriven = false) (t : Nat) :
    S.proj t = { S with basis := t } := by simp [TimerState.proj, h]

theorem TimerState.proj_early {S : TimerState} {P t : Nat} (h : S.phiDriven = true) (hP : S.pred = some P)
    (ht : t < P) : S.proj t = S := by simp [TimerState.proj, h, hP, ht]

theorem TimerState.proj_stops {S : TimerState} {P t : Nat} (h : S.phiDriven = true) (ho : S.oneShot = true)
    (hP : S.pred = some P) (ht : P ≤ t) :
    S.proj t = { S with running := false, count := 0, basis := t, pred := none } := by
  simp [TimerState.proj, h, hP, ho, Nat.not_lt.mpr ht]

theorem TimerState.proj_at_pred {S : TimerState} {P : Nat} (h : S.phiDriven = true) (ho : S.oneShot = false)
    (hP : S.pred = some P) : S.proj P = S := by simp [TimerState.proj, h, hP, ho]

theorem TimerState.proj_reloads {S : TimerState} {P t : Nat} (h : S.phiDriven = true) (ho : S.oneShot = false)
    (hP : S.pred = some P) (ht : P < t) :
    S.proj t =
      { S with
        basis := P + (t - P - 1) / S.period * S.period + 1
        count := S.latch
        pred := some (P + (t - P - 1) / S.period * S.period + 1 + S.latch.toNat) } := by
  simp [TimerState.proj, h, hP, ho, Nat.not_lt.mpr ht.le, Nat.not_le.mpr ht]

/-- Everything a projection can do to a state that keeps R22 (`40_timer_state_readback.md` R103). -/
theorem TimerState.proj_cases {S : TimerState} (hS : S.Predicted) (t : Nat) :
    (S.phiDriven = false ∧ S.proj t = { S with basis := t }) ∨
    (S.phiDriven = true ∧ t ≤ S.basis + S.count.toNat ∧ (S.oneShot = true → t < S.basis + S.count.toNat) ∧
      S.proj t = S) ∨
    (S.phiDriven = true ∧ S.oneShot = true ∧ S.basis + S.count.toNat ≤ t ∧
      S.proj t = { S with running := false, count := 0, basis := t, pred := none }) ∨
    (S.phiDriven = true ∧ S.oneShot = false ∧ S.basis + S.count.toNat < t ∧
      ∃ r, S.proj t = { S with basis := r, count := S.latch, pred := some (r + S.latch.toNat) } ∧
        r ≤ t ∧ t ≤ r + S.latch.toNat ∧
        ∃ m, r = S.basis + S.count.toNat + m * S.period + 1) := by
  rcases Bool.eq_false_or_eq_true S.phiDriven with hphi | hphi
  · have hP : S.pred = some (S.basis + S.count.toNat) := hS.trans (TimerState.prediction_of_phiDriven hphi)
    rcases Bool.eq_false_or_eq_true S.oneShot with ho | ho
    · rcases Nat.lt_or_ge t (S.basis + S.count.toNat) with ht | ht
      · exact .inr (.inl ⟨hphi, ht.le, fun _ => ht, TimerState.proj_early hphi hP ht⟩)
      · exact .inr (.inr (.inl ⟨hphi, ho, ht, TimerState.proj_stops hphi ho hP ht⟩))
    · rcases Nat.lt_trichotomy t (S.basis + S.count.toNat) with ht | ht | ht
      · exact .inr (.inl ⟨hphi, ht.le, fun _ => ht, TimerState.proj_early hphi hP ht⟩)
      · exact .inr (.inl ⟨hphi, ht.le, fun h => absurd (ho.symm.trans h) Bool.false_ne_true,
          ht ▸ TimerState.proj_at_pred hphi ho hP⟩)
      · refine .inr (.inr (.inr ⟨hphi, ho, ht, _, TimerState.proj_reloads hphi ho hP ht, ?_, ?_, _, rfl⟩))
        · have := Nat.div_mul_le_self (t - (S.basis + S.count.toNat) - 1) S.period
          omega
        · have h1 := Nat.lt_div_mul_add S.period_pos (a := t - (S.basis + S.count.toNat) - 1)
          have h2 : S.period = S.latch.toNat + 1 := rfl
          omega
  · exact .inl ⟨hphi, TimerState.proj_idle hphi t⟩

end Sys2Proof.Machine
end

