-- ==== Sys2Proof/Laws/History.lean ====
section
/-! SUPPORT. What the operations on the History Stack do (`41_history_stack.md`). -/

namespace Sys2Proof.Machine

theorem TimerState.derive_predicted (S : TimerState) (b : Nat) (c : Control) : (S.derive b c).Predicted := rfl

@[simp] theorem newest_nil (S : TimerState) : newest S [] = S := rfl

@[simp] theorem newest_cons (S E : TimerState) (l : List TimerState) : newest S (E :: l) = newest E l := rfl

@[simp] theorem newest_append_singleton (S E : TimerState) (l : List TimerState) : newest S (l ++ [E]) = E := by
  induction l generalizing S with
  | nil => rfl
  | cons F l ih => exact ih F

theorem newest_mem (S : TimerState) (l : List TimerState) : newest S l ∈ S :: l := by
  induction l generalizing S with
  | nil => simp
  | cons E l ih => exact List.mem_cons_of_mem _ (ih E)

/-- The discards of a push: what is kept is a prefix (`41_history_stack.md` R121). -/
theorem keepBefore_prefix (b : Nat) (l : List TimerState) : keepBefore b l <+: l := by
  induction l with
  | nil => exact List.prefix_rfl
  | cons E l ih =>
    unfold keepBefore
    split
    · split
      · exact List.nil_prefix
      · exact List.cons_prefix_cons.mpr ⟨rfl, List.nil_prefix⟩
    · rename_i heq
      exact List.cons_prefix_cons.mpr ⟨rfl, heq ▸ ih⟩

/-- In a stack with rising bases a push to `b` keeps exactly the entries with an earlier basis
(`41_history_stack.md` R121). -/
theorem keepBefore_eq_filter (b : Nat) {l : List TimerState} (h : l.Pairwise (fun E F => E.basis < F.basis)) :
    keepBefore b l = l.filter fun E => E.basis < b := by
  induction l with
  | nil => rfl
  | cons E l ih =>
    rw [List.pairwise_cons] at h
    rw [keepBefore, ih h.2]
    by_cases hE : E.basis < b
    · rw [List.filter_cons_of_pos (by simpa using hE)]
      split
      · rename_i heq
        rw [heq, if_neg (Nat.not_le.mpr hE)]
      · rename_i heq
        rw [heq]
    · have hnil : (l.filter fun F => F.basis < b) = [] := by
        rw [List.filter_eq_nil_iff]
        intro F hF
        have := h.1 F hF
        simp
        omega
      rw [List.filter_cons_of_neg (by simpa using hE), hnil]
      exact if_pos (Nat.not_lt.mp hE)

@[simp] theorem rederiveAbove_nil (Pr : TimerState) : rederiveAbove Pr [] = [] := rfl

theorem rederiveAbove_cons (Pr E : TimerState) (l : List TimerState) :
    rederiveAbove Pr (E :: l) =
      Pr.derive E.basis E.control :: rederiveAbove (Pr.derive E.basis E.control) l := rfl

@[simp] theorem rederiveAbove_length (Pr : TimerState) (l : List TimerState) :
    (rederiveAbove Pr l).length = l.length := by
  induction l generalizing Pr with
  | nil => rfl
  | cons E l ih => simp [rederiveAbove_cons, ih]

/-- `rederive()` changes no basis and no control value (`41_history_stack.md` R122). -/
theorem rederiveAbove_keeps_changes (Pr : TimerState) (l : List TimerState) :
    (rederiveAbove Pr l).map (fun E => (E.basis, E.control)) = l.map (fun E => (E.basis, E.control)) := by
  induction l generalizing Pr with
  | nil => rfl
  | cons E l ih => simp [rederiveAbove_cons, ih]

/-- After `rederive()` every entry has the latch of the entry it stands on (`41_history_stack.md` R120, R122). -/
theorem rederiveAbove_latch (Pr : TimerState) (l : List TimerState) : ∀ E ∈ rederiveAbove Pr l, E.latch = Pr.latch := by
  induction l generalizing Pr with
  | nil => simp
  | cons F l ih =>
    intro E hE
    rw [rederiveAbove_cons, List.mem_cons] at hE
    rcases hE with rfl | hE
    · exact Pr.derive_latch _ _
    · exact (ih _ E hE).trans (Pr.derive_latch _ _)

theorem rederiveAbove_predicted (Pr : TimerState) (l : List TimerState) : ∀ E ∈ rederiveAbove Pr l, E.Predicted := by
  induction l generalizing Pr with
  | nil => simp
  | cons F l ih =>
    intro E hE
    rw [rederiveAbove_cons, List.mem_cons] at hE
    rcases hE with rfl | hE
    · exact Pr.derive_predicted _ _
    · exact ih _ E hE

/-- Deriving a derived stack again changes nothing (`10_state.md` R26(f)). -/
theorem rederiveAbove_idempotent (Pr : TimerState) (l : List TimerState) :
    rederiveAbove Pr (rederiveAbove Pr l) = rederiveAbove Pr l := by
  induction l generalizing Pr with
  | nil => rfl
  | cons E l ih => simp [rederiveAbove_cons, ih]

/-- A derived stack followed by the state a push derives is derived (`41_history_stack.md` R121). -/
theorem rederiveAbove_append (Pr : TimerState) (l : List TimerState) (b : Nat) (c : Control)
    (h : rederiveAbove Pr l = l) :
    rederiveAbove Pr (l ++ [(newest Pr l).derive b c]) = l ++ [(newest Pr l).derive b c] := by
  induction l generalizing Pr with
  | nil => rfl
  | cons E l ih =>
    rw [rederiveAbove_cons, List.cons.injEq] at h
    rw [List.cons_append, rederiveAbove_cons, h.1, newest_cons, ih E (by simpa [h.1] using h.2)]

end Sys2Proof.Machine
end

