-- ==== Sys2Proof/Laws/Ops.lean ====
section
/-! SUPPORT. What the shared operations of a command do: the update, the alarm, the report, the fault checks; and one
equation per command. -/

namespace Sys2Proof.Machine

section Update
variable (T lo : Nat) (S E : TimerState) (l : List TimerState) (u : TimerUnit)

@[simp] theorem collapse_nil : collapse T lo S [] = { current := S, pending := [], lo := lo, n := 0, os := false } := rfl

theorem collapse_folds {T : Nat} {E : TimerState} (h : E.basis ≤ T) :
    collapse T lo S (E :: l) =
      { collapse T (E.basis - 1) E l with
        n := S.cnt lo (E.basis - 1) + (collapse T (E.basis - 1) E l).n
        os := (S.oneShot && S.cnt lo (E.basis - 1) == 1) || (collapse T (E.basis - 1) E l).os } := by
  simp [collapse, h]

theorem collapse_stops {T : Nat} {E : TimerState} (h : T < E.basis) :
    collapse T lo S (E :: l) = { current := S, pending := E :: l, lo := lo, n := 0, os := false } := by
  simp [collapse, Nat.not_le.mpr h]

@[simp] theorem TimerUnit.advanceTo_lastUpdate : (u.advanceTo T).unit.lastUpdate = T := rfl
@[simp] theorem TimerUnit.advanceTo_armed : (u.advanceTo T).unit.armed = u.armed := rfl
@[simp] theorem TimerUnit.advanceTo_fault : (u.advanceTo T).unit.fault = u.fault := rfl
@[simp] theorem TimerUnit.advanceTo_raised : (u.advanceTo T).raised = 0 := rfl

theorem TimerUnit.advance_forward {u : TimerUnit} {T : Nat} (h : u.lastUpdate ≤ T) : u.advance T = u.advanceTo T := by
  simp [TimerUnit.advance, Nat.not_lt.mpr h]

theorem TimerUnit.advance_regress {u : TimerUnit} {T : Nat} (h : T < u.lastUpdate) :
    u.advance T = (u.advanceTo u.lastUpdate).raise .regress := by simp [TimerUnit.advance, h]

/-- Everything an update can be: at its clock, or at `LU` with `REGRESS` raised (`42_advance.md` R141). -/
theorem TimerUnit.advance_cases :
    (u.lastUpdate ≤ T ∧ u.advance T = u.advanceTo T) ∨
      (T < u.lastUpdate ∧ u.advance T = (u.advanceTo u.lastUpdate).raise .regress) := by
  rcases Nat.lt_or_ge T u.lastUpdate with h | h
  · exact .inr ⟨h, TimerUnit.advance_regress h⟩
  · exact .inl ⟨h, TimerUnit.advance_forward h⟩

@[simp] theorem TimerUnit.advance_lastUpdate : (u.advance T).unit.lastUpdate = max T u.lastUpdate := by
  rcases u.advance_cases T with ⟨h, e⟩ | ⟨h, e⟩ <;> simp [e] <;> omega

@[simp] theorem TimerUnit.advance_armed : (u.advance T).unit.armed = u.armed := by
  rcases u.advance_cases T with ⟨_, e⟩ | ⟨_, e⟩ <;> simp [e]

/-- The fault bits of an update are `REGRESS` or none, and `FAULT` takes them (`60_exceptions.md` R222). -/
theorem TimerUnit.advance_fault :
    (u.advance T).unit.fault = u.fault ||| (u.advance T).raised ∧
      (u.advance T).raised = if T < u.lastUpdate then FaultKind.regress.bit else 0 := by
  rcases u.advance_cases T with ⟨h, e⟩ | ⟨h, e⟩
  · simp [e, Nat.not_lt.mpr h]
  · simp [e, h]

/-- An update looks at neither `AAC` nor `FAULT`, and carries both along (`42_advance.md` R148). -/
theorem TimerUnit.advanceTo_frame (a : Deadline) (f : FaultBits) :
    ({ u with armed := a, fault := f } : TimerUnit).advanceTo T =
      { u.advanceTo T with unit := { (u.advanceTo T).unit with armed := a, fault := f } } := rfl

end Update

section Alarm
variable (lo : Nat) (S E : TimerState) (l : List TimerState)

@[simp] theorem targetFrom_nil : targetFrom lo S [] = S.nextInstant lo := rfl

theorem targetFrom_cons :
    targetFrom lo S (E :: l) =
      match S.nextInstant lo with
      | none => targetFrom (E.basis - 1) E l
      | some x => if x ≤ E.basis - 1 then some x else targetFrom (E.basis - 1) E l := rfl

theorem TimerState.nextInstant_idle {S : TimerState} (h : S.phiDriven = false) : S.nextInstant lo = none := by
  simp [TimerState.nextInstant, h]

theorem TimerState.nextInstant_future {S : TimerState} {P lo : Nat} (h : S.phiDriven = true) (hP : S.pred = some P)
    (hlo : lo < P) : S.nextInstant lo = some P := by simp [TimerState.nextInstant, h, hP, hlo]

theorem TimerState.nextInstant_stopped {S : TimerState} {P lo : Nat} (h : S.phiDriven = true)
    (ho : S.oneShot = true) (hP : S.pred = some P) (hlo : P ≤ lo) : S.nextInstant lo = none := by
  simp [TimerState.nextInstant, h, ho, hP, Nat.not_lt.mpr hlo]

theorem TimerState.nextInstant_reloaded {S : TimerState} {P lo : Nat} (h : S.phiDriven = true)
    (ho : S.oneShot = false) (hP : S.pred = some P) (hlo : P ≤ lo) :
    S.nextInstant lo = some (P + ((lo - P) / S.period + 1) * S.period) := by
  simp [TimerState.nextInstant, h, ho, hP, Nat.not_lt.mpr hlo]

end Alarm

section Checks
variable (p : Params) (clk : Nat) (u : TimerUnit) (run : TimerUnit → Completion) (body : Progress → Progress)
  (value : TimerUnit → Arg)

theorem withLegalClock_legal {p : Params} {clk : Nat} (h : clk ≤ p.clkLimit) : withLegalClock p clk u run = run u := by
  simp [withLegalClock, Nat.not_lt.mpr h]

theorem withLegalClock_illegal {p : Params} {clk : Nat} (h : p.clkLimit < clk) :
    withLegalClock p clk u run = abort .clkRange u := by simp [withLegalClock, h]

/-- Everything a clocked command can do: refuse its clock, or update, run its body, re-arm and report
(`43_control_protocol.md` R150). -/
theorem clocked_cases :
    (clk ≤ p.clkLimit ∧ clocked p clk body value u = (body (u.advance clk)).finish value) ∨
      (p.clkLimit < clk ∧ clocked p clk body value u = abort .clkRange u) := by
  rcases Nat.lt_or_ge p.clkLimit clk with h | h
  · exact .inr ⟨h, withLegalClock_illegal u _ h⟩
  · exact .inl ⟨h, withLegalClock_legal u _ h⟩

theorem clocked_legal {p : Params} {clk : Nat} (h : clk ≤ p.clkLimit) :
    clocked p clk body value u = (body (u.advance clk)).finish value := withLegalClock_legal u _ h

@[simp] theorem underflowMessages_zero (os : Bool) : underflowMessages 0 os = [] := rfl

/-- At most one `SCHEDULE`, and only for a new target (`46_alarm_scheduler.md` R202). -/
theorem TimerUnit.rearmMessages_cases :
    (u.target = u.armed ∧ u.rearmMessages = []) ∨ (u.target ≠ u.armed ∧ u.rearmMessages = [.schedule u.target]) := by
  by_cases h : u.target = u.armed
  · exact .inl ⟨h, if_pos h⟩
  · exact .inr ⟨h, if_neg h⟩

end Checks

section Commands
variable (clk : Nat) (s : State)

theorem params_clkLimit : Config.params.clkLimit = 4294705151 := rfl
theorem params_never : Config.params.never = 4294967295 := rfl
theorem params_latSS : Config.params.latSS = 2 := rfl
theorem params_latRestart : Config.params.latRestart = 3 := rfl
theorem params_legal : Config.params.legal = true := by decide

/-- What a command does to a unit (`30_encoding.md` R83). -/
def completionOf (i : Instr) (u : TimerUnit) (p : Params := Config.params) : Completion :=
  match i with
  | .reset clk => resetUnit p clk u
  | .advance clk => advanceUnit p clk u
  | .valueAt clk => valueAtUnit p clk u
  | .setLatchLo clk data => setLatchLoUnit p clk data u
  | .setLatchHi clk data => setLatchHiUnit p clk data u
  | .setControl clk data => setControlUnit p clk data u
  | .ackAlarm clk => ackAlarmUnit p clk u
  | .regRead clk rs => regReadUnit p clk rs u
  | .regWrite clk rs data => regWriteUnit p clk rs data u
  | .cascadeTick clk n => cascadeTickUnit p clk n u
  | .rebase k => rebaseUnit k u
  | .snapshot clk => snapshotUnit p clk u
  | .restore clk snap => restoreUnit p clk snap u

/-- Every command completes, at any parameters, with what it does to the unit; the presented commands stay. -/
theorem execAt_eq_complete (p : Params) (i : Instr) :
    execAt p i s = .next (s.complete (completionOf i s.unit p)) := by cases i <;> rfl

/-- Every command completes with what it does to the unit; the presented commands stay. -/
theorem exec_eq_complete (i : Instr) : exec i s = .next (s.complete (completionOf i s.unit)) := by cases i <;> rfl

/-- Everything a step can do: stay idle, run the command the next word decodes to, or raise `ILLOP`. -/
theorem step_cases {s t : State} (h : step s = .next t) :
    (s.commands = [] ∧ t = s) ∨
    (∃ w rest i, s.commands = w :: rest ∧ decode w = .ok i ∧
      t = ({ s with commands := rest } : State).complete (completionOf i s.unit)) ∨
    (∃ w rest op, s.commands = w :: rest ∧ decode w = .error (.reservedOp op) ∧
      t = ({ s with commands := rest } : State).illegalOp) := by
  rcases hc : s.commands with _ | ⟨w, rest⟩
  · left
    simp only [step, State.nextCommand, hc] at h
    cases h
    exact ⟨rfl, rfl⟩
  · right
    simp only [step, State.nextCommand, hc] at h
    split at h
    · rename_i i hd
      rw [exec_eq_complete] at h
      cases h
      exact .inl ⟨w, rest, i, rfl, hd, rfl⟩
    · rename_i op hd
      cases h
      exact .inr ⟨w, rest, op, rfl, hd, rfl⟩

/-- Everything a presented word can do: execute, and deliver the messages of the state it leaves (`00_scope.md` R8). -/
theorem presentWord_next {c : Configuration} {w : CommandWord c.params.clkw} {s t : State}
    {sent : List (Delivery c.params.clkw)} (h : presentWord c w s = .next (t, sent)) :
    executeWord c.params w s = .next t ∧ sent = t.deliveries c := by
  unfold presentWord at h
  split at h
  · rename_i u hu
    cases h
    exact ⟨hu, rfl⟩
  · cases h
  · cases h

end Commands

end Sys2Proof.Machine
end

