-- ==== Sys2Proof/Laws/Words.lean ====
section
/-! SUPPORT. The fields of a word put together from fields: what `encodeWord` places is what the field functions read. -/

namespace Sys2Proof

theorem argField_append {clkw : Nat} (op : Byte) (c : BitVec clkw) (a : Arg) :
    argField (clkw := clkw) (op ++ c ++ a) = a := by
  apply BitVec.eq_of_getLsbD_eq
  intro i hi
  simp [argField, BitVec.getLsbD_append, hi]

theorem clkField_append {clkw : Nat} (op : Byte) (c : BitVec clkw) (a : Arg) :
    clkField (clkw := clkw) (op ++ c ++ a) = c.toNat := by
  apply congrArg BitVec.toNat
  apply BitVec.eq_of_getLsbD_eq
  intro i hi
  simp [BitVec.getLsbD_append, hi]

theorem opField_append {clkw : Nat} (op : Byte) (c : BitVec clkw) (a : Arg) :
    opField (clkw := clkw) (op ++ c ++ a) = op := by
  apply BitVec.eq_of_getLsbD_eq
  intro i hi
  have h1 : ¬ clkw + 40 + i < 40 := by omega
  have h2 : ¬ clkw + 40 + i - 40 < clkw := by omega
  have h3 : clkw + 40 + i - 40 - clkw = i := by omega
  simp [opField, BitVec.getLsbD_append, hi, h1, h2, h3]

theorem opField_encodeWord (clkw : Nat) (i : Instr) : opField (encodeWord clkw i) = i.opcode := opField_append _ _ _

theorem argField_encodeWord (clkw : Nat) (i : Instr) : argField (encodeWord clkw i) = i.argBits := argField_append _ _ _

theorem clkField_encodeWord (clkw : Nat) (i : Instr) (h : i.clockField < 2 ^ clkw) :
    clkField (encodeWord clkw i) = i.clockField :=
  (clkField_append _ _ _).trans (by simp [Nat.mod_eq_of_lt h])

theorem clkField_lt {clkw : Nat} (w : CommandWord clkw) : clkField w < 2 ^ clkw := BitVec.isLt _

@[simp] theorem decodeSelect_encodeSelect (rs : RegSelect) : decodeSelect (encodeSelect rs) = rs := by
  cases rs <;> rfl

@[simp] theorem encodeSelect_decodeSelect (b : BitVec 3) : encodeSelect (decodeSelect b) = b := by
  revert b
  decide

end Sys2Proof
end

