-- ==== Sys2Proof/Laws/PerInstr.lean ====
section
/-! SUPPORT. The per-command family `WordFields`: the three fields of a command's word are its opcode, its clock operand
and its argument bits (`30_encoding.md` R80). -/

namespace Sys2Proof.Laws

/-- The word of a well-formed command holds `OP`, `CLK` and `ARG` of that command and nothing else. -/
def WordFields.Statement (i : Instr) : Prop :=
  i.wellFormed = true →
    opField (clkw := 32) (encode i) = i.opcode ∧ clkField (clkw := 32) (encode i) = i.clockField ∧
      argField (clkw := 32) (encode i) = i.argBits

theorem WordFields.of_wellFormed (i : Instr) : WordFields.Statement i := fun h =>
  ⟨opField_encodeWord 32 i, clkField_encodeWord 32 i (of_decide_eq_true h), argField_encodeWord 32 i⟩

theorem WordFields.reset (clk : Nat) : WordFields.Statement (.reset clk) := WordFields.of_wellFormed _
theorem WordFields.advance (clk : Nat) : WordFields.Statement (.advance clk) := WordFields.of_wellFormed _
theorem WordFields.valueAt (clk : Nat) : WordFields.Statement (.valueAt clk) := WordFields.of_wellFormed _
theorem WordFields.setLatchLo (clk : Nat) (data : Byte) : WordFields.Statement (.setLatchLo clk data) :=
  WordFields.of_wellFormed _
theorem WordFields.setLatchHi (clk : Nat) (data : Byte) : WordFields.Statement (.setLatchHi clk data) :=
  WordFields.of_wellFormed _
theorem WordFields.setControl (clk : Nat) (data : Byte) : WordFields.Statement (.setControl clk data) :=
  WordFields.of_wellFormed _
theorem WordFields.ackAlarm (clk : Nat) : WordFields.Statement (.ackAlarm clk) := WordFields.of_wellFormed _
theorem WordFields.regRead (clk : Nat) (rs : RegSelect) : WordFields.Statement (.regRead clk rs) :=
  WordFields.of_wellFormed _
theorem WordFields.regWrite (clk : Nat) (rs : RegSelect) (data : Byte) :
    WordFields.Statement (.regWrite clk rs data) := WordFields.of_wellFormed _
theorem WordFields.cascadeTick (clk : Nat) (n : Half) : WordFields.Statement (.cascadeTick clk n) :=
  WordFields.of_wellFormed _
theorem WordFields.rebase (k : Nat) : WordFields.Statement (.rebase k) := WordFields.of_wellFormed _
theorem WordFields.snapshot (clk : Nat) : WordFields.Statement (.snapshot clk) := WordFields.of_wellFormed _
theorem WordFields.restore (clk : Nat) (snap : Arg) : WordFields.Statement (.restore clk snap) :=
  WordFields.of_wellFormed _

end Sys2Proof.Laws
end

