-- ==== Sys2Proof/Machine/Assembler.lean ====
section
/-! DEFINITION. The textual notation of `30_encoding.md`: the pseudo-instructions (R93), a reader for a line of the
assembler syntax and a printer (R92). No step depends on it. What R92 leaves open (blanks, ranges, letter case) is fixed
here: DESIGN CHOICE, log entry 19. -/

namespace Sys2Proof.Machine

/-- The pseudo-instructions (R93). -/
inductive Pseudo where
  | setLatch (clk : Nat) (v16 : Half)
  | startCont (clk : Nat)
  | startOneshot (clk : Nat)
  | stop (clk : Nat)
  | restartCont (clk : Nat)
  | restartOneshot (clk : Nat)
  | forceLoad (clk : Nat)
  | readCount (clk : Nat)
deriving DecidableEq, Repr

/-- The commands a pseudo-instruction stands for (R93). -/
def Pseudo.expand : Pseudo → List Instr
  | .setLatch clk v16 => [.setLatchLo clk (lowByte v16), .setLatchHi clk (highByte v16)]
  | .startCont clk => [.setControl clk 0x01]
  | .startOneshot clk => [.setControl clk 0x03]
  | .stop clk => [.setControl clk 0x00]
  | .restartCont clk => [.setControl clk 0x05]
  | .restartOneshot clk => [.setControl clk 0x07]
  | .forceLoad clk => [.setControl clk 0x04]
  | .readCount clk => [.regRead clk .countLo, .regRead clk .countHi]

/-- The value of a `READ_COUNT` from its two bytes, `{hi, lo}` (R93). -/
def readCountValue (lo hi : Byte) : Half := hi ++ lo

/-- A line of text. -/
abbrev Text := List Char

/-- A blank. -/
def isBlank (c : Char) : Bool := c == ' ' || c == '\t'

/-- Text without the blanks at both ends. -/
def trimText (t : Text) : Text := ((t.dropWhile isBlank).reverse.dropWhile isBlank).reverse

/-- The digits of a number in ascending order (R92): the first ten for a decimal number, all sixteen for a hexadecimal
one, where a letter may stand in either case. -/
def numerals : Text := "0123456789ABCDEF".toList

/-- One more digit to the right of a number read so far: the digit counts as its place among the numerals of the base. -/
def appendNumeral (base sofar : Nat) (c : Char) : Option Nat :=
  ((numerals.take base).idxOf? c.toUpper).map (base * sofar + ·)

/-- The number a row of numerals writes. -/
def readNumerals (base : Nat) (t : Text) : Option Nat := t.foldlM (appendNumeral base) 0

/-- A number, decimal or `0x` hexadecimal (R92), below `bound`. -/
def readNumber (bound : Nat) (t : Text) : Option Nat :=
  let v := match trimText t with
    | [] => none
    | ['0', 'x'] => none
    | '0' :: 'x' :: rest => readNumerals 16 rest
    | digits => readNumerals 10 digits
  v.filter (· < bound)

/-- A clock value or `K`. -/
def readClock (p : Params) (t : Text) : Option Nat := readNumber (2 ^ p.clkw) t

/-- The names of the registers (`30_encoding.md` R86). -/
def selectNames : List (String × RegSelect) :=
  [("COUNT_LO", .countLo), ("COUNT_HI", .countHi), ("LATCH_LO", .latchLo), ("LATCH_HI", .latchHi),
    ("CONTROL", .control)]

/-- `reg`: a name or a number of R86. -/
def readSelect (t : Text) : Option RegSelect :=
  match selectNames.find? (fun e => e.1.toList == trimText t) with
  | some e => some e.2
  | none => (readNumber 8 t).map fun n => decodeSelect (BitVec.ofNat 3 n)

/-- The names of the control bits (`30_encoding.md` R85). -/
def controlNames : List (String × Byte) := [("START", 1), ("ONESHOT", 2), ("LOAD", 4), ("CASCADE", 8)]

/-- A byte: a number, or a list of control-bit names with bars between them (R92). -/
def readByte (t : Text) : Option Byte :=
  match readNumber 256 t with
  | some n => some (BitVec.ofNat 8 n)
  | none =>
    ((t.splitOn '|').mapM fun name => (controlNames.find? fun e => e.1.toList == trimText name).map (·.2)).map
      fun bits => bits.foldl (· ||| ·) 0

/-- One `name=v` of a snapshot record, `v` below `bound`. -/
def readField (name : String) (bound : Nat) (t : Text) : Option Nat :=
  match t.splitOn '=' with
  | [n, v] => if trimText n = name.toList then readNumber bound v else none
  | _ => none

/-- `snap`: a 40-bit number, or `latch=v, count=v, mode=v` in braces (R92). The braces are characters 123 and 125. -/
def readSnap (t : Text) : Option Arg :=
  match readNumber (2 ^ 40) t with
  | some n => some (BitVec.ofNat 40 n)
  | none =>
    match trimText t with
    | c :: rest =>
      if c.toNat = 123 ∧ rest.getLast?.map Char.toNat = some 125 then
        match rest.dropLast.splitOn ',' with
        | [l, n, m] =>
          match readField "latch" (2 ^ 16) l, readField "count" (2 ^ 16) n, readField "mode" 256 m with
          | some latch, some count, some mode => some (BitVec.ofNat 40 (mode * 2 ^ 32 + count * 2 ^ 16 + latch))
          | _, _, _ => none
        | _ => none
      else none
    | [] => none

/-- The operands of a command whose only operand is a clock. -/
def readC (p : Params) (f : Nat → List Instr) (ops : Text) : Option (List Instr) := (readClock p ops).map f

/-- Text up to the first comma, and the text after it. -/
def splitComma (t : Text) : Option (Text × Text) :=
  match t.dropWhile (· != ',') with
  | [] => none
  | _ :: rest => some (t.takeWhile (· != ','), rest)

/-- A clock and one more operand. -/
def readCX {α : Type} (p : Params) (read : Text → Option α) (f : Nat → α → List Instr) (ops : Text) : Option (List Instr) :=
  match splitComma ops with
  | none => none
  | some (c, x) =>
    match readClock p c, read x with
    | some clk, some v => some (f clk v)
    | _, _ => none

/-- The operands of `REG_WRITE`. -/
def readCRB (p : Params) (ops : Text) : Option (List Instr) :=
  match splitComma ops with
  | none => none
  | some (c, rest) =>
    match splitComma rest with
    | none => none
    | some (r, b) =>
      match readClock p c, readSelect r, readByte b with
      | some clk, some rs, some d => some [.regWrite clk rs d]
      | _, _, _ => none

/-- How the operands of each mnemonic are read: the thirteen commands (R92), then the pseudo-instructions (R93). -/
def readers (p : Params) : List (String × (Text → Option (List Instr))) :=
  [("RESET", readC p fun c => [.reset c]),
    ("ADVANCE", readC p fun c => [.advance c]),
    ("VALUE_AT", readC p fun c => [.valueAt c]),
    ("SET_LATCH_LO", readCX p readByte fun c d => [.setLatchLo c d]),
    ("SET_LATCH_HI", readCX p readByte fun c d => [.setLatchHi c d]),
    ("SET_CONTROL", readCX p readByte fun c d => [.setControl c d]),
    ("ACK_ALARM", readC p fun c => [.ackAlarm c]),
    ("REG_READ", readCX p readSelect fun c rs => [.regRead c rs]),
    ("REG_WRITE", readCRB p),
    ("CASCADE_TICK", readCX p (readNumber (2 ^ 16)) fun c n => [.cascadeTick c (BitVec.ofNat 16 n)]),
    ("REBASE", readC p fun k => [.rebase k]),
    ("SNAPSHOT", readC p fun c => [.snapshot c]),
    ("RESTORE", readCX p readSnap fun c v => [.restore c v]),
    ("SET_LATCH", readCX p (readNumber (2 ^ 16)) fun c n => (Pseudo.setLatch c (BitVec.ofNat 16 n)).expand),
    ("START_CONT", readC p fun c => (Pseudo.startCont c).expand),
    ("START_ONESHOT", readC p fun c => (Pseudo.startOneshot c).expand),
    ("STOP", readC p fun c => (Pseudo.stop c).expand),
    ("RESTART_CONT", readC p fun c => (Pseudo.restartCont c).expand),
    ("RESTART_ONESHOT", readC p fun c => (Pseudo.restartOneshot c).expand),
    ("FORCE_LOAD", readC p fun c => (Pseudo.forceLoad c).expand),
    ("READ_COUNT", readC p fun c => (Pseudo.readCount c).expand)]

/-- A line without its comment, which runs from `;` to the end, and without the result written after `->` (R92). -/
def commandPart : Text → Text
  | [] => []
  | ';' :: _ => []
  | '-' :: '>' :: _ => []
  | c :: rest => c :: commandPart rest

/-- The commands a line of assembler text stands for, on a machine with the given parameters: none for an empty line,
nothing for a line R92 does not allow. -/
def assembleLine (line : String) (p : Params := Config.params) : Option (List Instr) :=
  let t := trimText (commandPart line.toList)
  let name := t.takeWhile fun c => !isBlank c
  if t = [] then some []
  else
    match (readers p).find? (fun e => e.1.toList == name) with
    | none => none
    | some e => e.2 (t.drop name.length)

/-- The name of a register select; a reserved one is written as its number. -/
def RegSelect.text (rs : RegSelect) : String :=
  match selectNames.find? (fun e => e.2 == rs) with
  | some e => e.1
  | none => (encodeSelect rs).toNat.repr

/-- A command in assembler text, numbers in decimal (R92). -/
def printInstr : Instr → String
  | .reset c => "RESET " ++ c.repr
  | .advance c => "ADVANCE " ++ c.repr
  | .valueAt c => "VALUE_AT " ++ c.repr
  | .setLatchLo c d => "SET_LATCH_LO " ++ c.repr ++ ", " ++ d.toNat.repr
  | .setLatchHi c d => "SET_LATCH_HI " ++ c.repr ++ ", " ++ d.toNat.repr
  | .setControl c d => "SET_CONTROL " ++ c.repr ++ ", " ++ d.toNat.repr
  | .ackAlarm c => "ACK_ALARM " ++ c.repr
  | .regRead c rs => "REG_READ " ++ c.repr ++ ", " ++ RegSelect.text rs
  | .regWrite c rs d => "REG_WRITE " ++ c.repr ++ ", " ++ RegSelect.text rs ++ ", " ++ d.toNat.repr
  | .cascadeTick c n => "CASCADE_TICK " ++ c.repr ++ ", " ++ n.toNat.repr
  | .rebase k => "REBASE " ++ k.repr
  | .snapshot c => "SNAPSHOT " ++ c.repr
  | .restore c v => "RESTORE " ++ c.repr ++ ", " ++ v.toNat.repr

end Sys2Proof.Machine
end

