-- ==== Sys2Proof/Tests/Slice0.lean ====
section
/-! SUPPORT. Tests: encodability, decoding of words written out from the spec, one or two single steps per command with
results taken from `95_test_vectors.md`, and for every statement with hypotheses a concrete case that meets them. -/

namespace Sys2Proof.Tests
open Sys2Proof Sys2Proof.Machine

-- ---------------------------------------------------------------- small states

/-- The source's unit: continuous, latch 9, basis 0 (`95_test_vectors.md`, conventions). -/
def running9 : TimerState := ⟨0, some 9, 9, 9, true, false, false, false⟩
/-- A stopped timer with latch and count 9. -/
def stopped9 (b : Nat) : TimerState := ⟨b, none, 9, 9, false, false, false, false⟩
/-- A one-shot timer with latch 5 running from 0. -/
def oneShot5 : TimerState := ⟨0, some 5, 5, 5, true, true, false, false⟩
/-- A continuous cascade timer showing 2 with latch 2. -/
def cascade2 : TimerState := ⟨0, none, 2, 2, true, false, true, false⟩
/-- A one-entry unit. -/
def unitOf (S : TimerState) (lu : Nat) (aac : Deadline) : TimerUnit := ⟨S, [], lu, aac, 0⟩
/-- A state with nothing presented and nothing out. -/
def stateOf (u : TimerUnit) : State := ⟨u, [], none, []⟩
def source : State := stateOf (unitOf running9 0 (some 9))
/-- `START` written at 100 to a stopped timer, effective at 102 (section 2.6 (d), row 2). -/
def starting : State :=
  stateOf ⟨stopped9 100, [⟨102, some 111, 9, 9, true, false, false, false⟩], 100, some 111, 0⟩
/-- Three restarts one tick apart: four entries (section 2.6 (e), row 4). -/
def fullStack : State :=
  stateOf
    ⟨⟨100, some 109, 9, 9, true, false, false, false⟩,
      [⟨103, some 112, 9, 9, true, false, false, true⟩, ⟨104, some 113, 9, 9, true, false, false, true⟩,
        ⟨105, some 114, 9, 9, true, false, false, true⟩], 102, some 114, 0⟩
/-- The source's unit at 105 of a restore at 100 (section 2.12, row 2). -/
def at105 : State := stateOf (unitOf ⟨100, some 109, 9, 9, true, false, false, false⟩ 105 (some 109))
/-- A machine with 24-bit clocks on which every control write takes one tick. -/
def oneTickMachine : Params := { clkw := 24, latSS := 1, latRestart := 2 }
/-- The state after a command. -/
def after (i : Instr) (s : State) : State :=
  match exec i s with
  | .next t => t
  | _ => s
/-- The state after one step on a presented word. -/
def afterWord (w : Nat) (s : State) : State :=
  match step (s.withFetchWord 80 w) with
  | .next t => t
  | _ => s
/-- The reference machine that shows what a one-entry unit shows. -/
def refOf (u : TimerUnit) : RefMachine :=
  { t := u.lastUpdate, count := u.current.valueAt u.lastUpdate, latch := u.current.latch, run := u.current.running
    os := u.current.oneShot, cas := u.current.cascade, pend := u.pending.map (fun E => (E.basis, E.control)), ev := 0 }

-- ---------------------------------------------------------------- WellFormed

theorem test_clock_too_wide_refused : (Instr.advance (2 ^ 32)).wellFormed = false := by decide
theorem test_rebase_constant_too_wide_refused : (Instr.rebase (2 ^ 32)).wellFormed = false := by decide
theorem test_widest_clock_accepted : (Instr.restore (2 ^ 32 - 1) 0).wellFormed = true := by decide

-- ---------------------------------------------------------------- decoding (section 2.13, printed words)

theorem test_decode_reset : decode 0x00123456780000000000 = .ok (.reset 305419896) := by decide
theorem test_decode_advance : decode 0x01000000230000000000 = .ok (.advance 35) := by decide
theorem test_decode_valueAt : decode 0x02000000230000000000 = .ok (.valueAt 35) := by decide
theorem test_decode_setLatchLo : decode 0x030000010000000000AB = .ok (.setLatchLo 256 0xAB) := by decide
theorem test_decode_setLatchHi : decode 0x040000010000000000CD = .ok (.setLatchHi 256 0xCD) := by decide
theorem test_decode_setControl : decode 0x0500000100000000000F = .ok (.setControl 256 0x0F) := by decide
theorem test_decode_ackAlarm : decode 0x06FFFBFFFF0000000000 = .ok (.ackAlarm 4294705151) := by decide
theorem test_decode_regRead : decode 0x07000000010000000400 = .ok (.regRead 1 .control) := by decide
theorem test_decode_regWrite : decode 0x08000000010000000380 = .ok (.regWrite 1 .latchHi 0x80) := by decide
theorem test_decode_cascadeTick : decode 0x0900000002000000FFFF = .ok (.cascadeTick 2 0xFFFF) := by decide
theorem test_decode_rebase : decode 0x0A000100000000000000 = .ok (.rebase 65536) := by decide
theorem test_decode_snapshot : decode 0x0B000000030000000000 = .ok (.snapshot 3) := by decide
theorem test_decode_restore : decode 0x0C000000040B12345678 = .ok (.restore 4 0x0B12345678) := by decide
theorem test_decode_ignores_unnamed_bits : decode 0x07000000010000FFFCFF = .ok (.regRead 1 .control) := by decide
theorem test_decode_reserved_op : decode 0x0D000000000000000000 = .error (.reservedOp 0x0D) := by decide
theorem test_decode_last_reserved_op : decode 0xFF0000006A0000000000 = .error (.reservedOp 0xFF) := by decide
theorem test_encode_restore : encode (.restore 4 0x0B12345678) = 0x0C000000040B12345678 := by decide
theorem test_encode_regWrite : encode (.regWrite 1 .latchHi 0x80) = 0x08000000010000000380 := by decide
theorem test_tableWord_advance : decodeTableWord 80 0x01000000230000000000 = some (.advance 35) := by decide
theorem test_assemble_restart :
    assembleLine "SET_CONTROL 95, START|LOAD ; restart" = some [.setControl 95 0x05] := by decide

-- ---------------------------------------------------------------- single steps

/-- Section 2.11, row 8. -/
theorem test_reset : (afterWord 0x00000000070000000000 at105).unit = unitOf (TimerState.atReset 7) 7 none ∧
    (afterWord 0x00000000070000000000 at105).messages = [.schedule none] := by decide
/-- Section 1.4, row 2. -/
theorem test_advance : (afterWord 0x01000000230000000000 source).unit =
      unitOf ⟨30, some 39, 9, 9, true, false, false, false⟩ 35 (some 39) ∧
    (afterWord 0x01000000230000000000 source).messages = [.underflow 3 false, .schedule (some 39)] := by decide
/-- Section 1.3, the far advance of a one-shot timer. -/
theorem test_advance_oneShot :
    (after (.advance 99999) (stateOf (unitOf oneShot5 0 (some 5)))).messages = [.underflow 1 true, .schedule none] := by
  decide
/-- Section 2.12, rows 5 and 6. -/
theorem test_valueAt : (after (.valueAt 105) at105).result = some ⟨0, 0, 4⟩ := by decide
theorem test_valueAt_stale : (after (.valueAt 104) at105).result = some ⟨0x40, 0, 0⟩ := by decide
/-- Section 2.7, rows 7 and 10. -/
theorem test_setLatchLo_running : (after (.setLatchLo 24 2)
      (stateOf (unitOf ⟨22, some 27, 5, 5, true, false, false, false⟩ 22 (some 27)))).unit =
    unitOf ⟨22, some 27, 5, 2, true, false, false, false⟩ 24 (some 27) := by decide
theorem test_setLatchLo_pending_start : (after (.setLatchLo 101 5) starting).unit =
    ⟨⟨101, none, 5, 5, false, false, false, false⟩, [⟨102, some 107, 5, 5, true, false, false, false⟩], 101, some 107,
      0⟩ := by decide
/-- Section 2.7, row 2. -/
theorem test_setLatchHi : (after (.setLatchHi 10 0x12)
      (stateOf (unitOf ⟨10, none, 65332, 65332, false, false, false, false⟩ 10 none))).unit.current =
    ⟨10, none, 4660, 4660, false, false, false, false⟩ := by decide
/-- Section 2.6 (c), row 3, and section 2.12, row 7. -/
theorem test_setControl_restart : (after (.setControl 95 5)
      (stateOf (unitOf ⟨90, some 99, 9, 9, true, false, false, false⟩ 90 (some 99)))).unit.pending =
    [⟨98, some 107, 9, 9, true, false, false, true⟩] := by decide
theorem test_setControl_malformed : (after (.setControl 106 0x10) at105).unit.fault = 2 := by decide
/-- Section 2.8, rows 2 and 5. -/
theorem test_ackAlarm : (after (.ackAlarm 9) source).messages = [.underflow 1 false, .schedule (some 19)] := by decide
theorem test_ackAlarm_nothing_left : (after (.ackAlarm 50)
      (stateOf (unitOf ⟨50, some 59, 9, 9, true, false, false, false⟩ 50 (some 59)))).messages =
    [.schedule (some 59)] := by decide
/-- Section 1.5, rows 4 and 6. -/
theorem test_regRead_before_start : (after (.regRead 101 .countLo) starting).result = some ⟨0, 0, 9⟩ := by decide
theorem test_regRead_after_start : (after (.regRead 103 .countLo) starting).result = some ⟨0, 0, 8⟩ := by decide
/-- Section 2.10, row 3, and section 2.12, row 10. -/
theorem test_regWrite_count_dropped : (after (.regWrite 200 .countLo 0x77) at105).unit = at105.unit := by decide
theorem test_regWrite_reserved : (after (.regWrite 106 .reserved7 0) at105).result = some ⟨8, 0, 0⟩ := by decide
/-- Section 2.9. -/
theorem test_cascadeTick_wraps : (after (.cascadeTick 0 5) (stateOf (unitOf cascade2 0 none))).result = some ⟨0, 2, 0⟩ ∧
    (after (.cascadeTick 0 5) (stateOf (unitOf cascade2 0 none))).unit.current.count = 0 := by decide
theorem test_cascadeTick_oneShot : (after (.cascadeTick 0 50)
      (stateOf (unitOf ⟨0, none, 3, 9, true, true, true, false⟩ 0 none))).messages = [.underflow 1 true] := by decide
/-- Section 2.11, rows 4 and 6. -/
theorem test_rebase : (after (.rebase 100) starting).unit =
    ⟨stopped9 0, [⟨2, some 11, 9, 9, true, false, false, false⟩], 0, some 11, 0⟩ := by decide
theorem test_rebase_too_far : (after (.rebase 101) starting).unit.fault = 0x20 := by decide
/-- Section 1.7, row 2. -/
theorem test_snapshot : (after (.snapshot 35) source).result = some ⟨0, 3, 0x0100040009⟩ := by decide
/-- Section 2.11, row 1, and section 2.12, row 11. -/
theorem test_restore : (after (.restore 1000 0x0100040009) at105).unit =
    unitOf ⟨1000, some 1004, 4, 9, true, false, false, false⟩ 1000 (some 1004) := by decide
theorem test_restore_malformed : (after (.restore 200 0x0400090009) at105).result = some ⟨16, 0, 0⟩ := by decide
/-- Section 2.12, row 15: a reserved `OP`. -/
theorem test_reserved_op_step : (afterWord 0xFF0000006A0000000000 at105).unit.fault = 8 := by decide
theorem test_debug_step_stops : debugStep (at105.withFetchWord 80 0xFF0000006A0000000000) = .fault (.assertion 8) := rfl

/-- R6: the word of a machine with 24-bit clocks has 72 bits and its `CLK_LIMIT` is `2^24 - 1 - 2^18`. -/
theorem test_parameters_word :
    decodeWord (clkw := 24) 0x050000640000000001 = .ok (.setControl 100 1) ∧
      oneTickMachine.clkLimit = 16515071 := by decide
/-- R6, R155: `LAT_SS = 1` makes a start written at 100 effective at 101. -/
theorem test_parameters_latency :
    (match executeWord oneTickMachine (0x050000640000000001 : BitVec 72) (stateOf (unitOf (stopped9 100) 100 none)) with
      | .next t => t.unit.pending
      | _ => []) = [⟨101, some 110, 9, 9, true, false, false, false⟩] := by decide

/-- Section 2.8, row 2, on a unit created with token 7 and sink 3 (R8): each message carries its own name. -/
theorem test_messages_carry_the_names :
    (after (.ackAlarm 9) source).deliveries { callbackToken := 7, interruptSink := 3 } =
      [.toSink 3 1 false, .toScheduler 7 19] := by decide
/-- R8, R20: a unit with token 8 delivers its own token, `NEVER` as the reserved maximum. -/
theorem test_power_on_delivers_the_token :
    State.reset.deliveries { callbackToken := 8, interruptSink := 3 } = [.toScheduler 8 0xFFFFFFFF] := by decide

-- ---------------------------------------------------------------- a case for every statement with hypotheses

theorem witness_EncodedCommandDecodesToItself : (Instr.regWrite 0xFFFFFFFF .control 0xFF).wellFormed = true := by decide
theorem witness_DecodingReadsOnlyNamedBits : decode 0x07000000010000FFFCFF = .ok (.regRead 1 .control) := by decide
theorem witness_StepRunsTheDecodedCommand :
    (source.withFetchWord 80 0x01000000230000000000).commands = 0x01000000230000000000#80 :: [] ∧
      decode 0x01000000230000000000 = .ok (.advance 35) := by decide
theorem witness_ReservedOpcodeRaisesIllop :
    (source.withFetchWord 80 0x0D000000000000000000).commands = 0x0D000000000000000000#80 :: [] ∧
      0x0D ≤ (opField (clkw := 32) 0x0D000000000000000000#80).toNat ∧
      0x0D ≤ (opField (clkw := 32) 0xFF000000000000000000#80).toNat := by decide
theorem witness_IdleStepHoldsState : source.commands = [] := rfl
theorem witness_PowerOnIsResetAtZero : source.unit.fault = 0 := rfl
theorem witness_ResetReseatsTheUnit : (4294705151 : Nat) ≤ 4294705151 ∧ 4294705151 < (4294705152 : Nat) := by decide
theorem witness_CntCountsUnderflowInstants : (0 : Nat) ≤ 35 ∧ running9.cnt 0 35 = 3 := by decide
theorem witness_ReadBackIsTickByTick :
    running9.Predicted ∧ running9.phiDriven = true ∧ running9.oneShot = false := by decide
theorem witness_ProjectionsCompose : running9.Predicted ∧ running9.basis ≤ 10 ∧ (10 : Nat) ≤ 35 := by decide
theorem witness_ProjectionKeepsTheFuture_continuous :
    running9.Predicted ∧ running9.basis ≤ 10 ∧ running9.oneShot = false ∧ (10 : Nat) ≤ 10 ∧ (9 : Nat) < 10 ∧
      (running9.proj 10).phiDriven = true ∧ running9.count ≤ running9.latch := by decide
theorem witness_ProjectionKeepsTheFuture_oneShot :
    oneShot5.Predicted ∧ oneShot5.basis ≤ 5 ∧ oneShot5.oneShot = true ∧ oneShot5.phiDriven = true ∧
      oneShot5.basis + oneShot5.count.toNat ≤ 5 := by decide
/-- The printed bound fails here: section 2.7, row 10, `{b=22 c=5 L=2 run P=27}` at 24. -/
theorem witness_ProjectedPredWithinOnePeriodAsPrinted :
    TimerState.Predicted ⟨22, some 27, 5, 2, true, false, false, false⟩ ∧
      (TimerState.proj ⟨22, some 27, 5, 2, true, false, false, false⟩ 24).phiDriven = true ∧
      (TimerState.proj ⟨22, some 27, 5, 2, true, false, false, false⟩ 24).pred = some 27 := by decide
theorem witness_DerivedStateStartsWhereThePredecessorIs :
    running9.Predicted ∧ running9.basis < 1 ∧ running9.phiDriven = true ∧ running9.oneShot = false ∧
      (decodeControl 0x01).load = false ∧ (decodeControl 0x05).load = true := by decide
theorem witness_DerivedStateStartsWhereThePredecessorIs_others :
    (stopped9 0).Predicted ∧ (stopped9 0).phiDriven = false ∧ oneShot5.Predicted ∧ oneShot5.basis < 5 ∧
      oneShot5.phiDriven = true ∧ oneShot5.oneShot = true := by decide
theorem witness_StartingFromZeroUnderflowsAtOnce :
    running9.Predicted ∧ running9.basis < 9 ∧ (running9.proj 9).valueAt 9 = 0 ∧ (decodeControl 0x01).load = false ∧
      (decodeControl 0x01).start = true ∧ (decodeControl 0x01).cascade = false := by decide
theorem witness_PushSupersedesLaterEntries :
    fullStack.unit.Inv Config.params ∧ fullStack.unit.lastUpdate < 103 ∧ fullStack.unit.lastUpdate < 105 ∧
      (fullStack.unit.pending.filter fun E => E.basis < 105).length < 3 ∧ fullStack.unit.lastUpdate < 106 ∧
      3 ≤ (fullStack.unit.pending.filter fun E => E.basis < 106).length := by decide
/-- A latency of 4, which R6 forbids, overflows the full stack. -/
theorem witness_PushSupersedesLaterEntries_overflow :
    fullStack.unit.pushOverflows
      (fullStack.unit.lastUpdate + latency { latSS := 4 } fullStack.unit.top.running (decodeControl 0)) = true := by
  decide
theorem witness_StackNeverOverflows : Config.params.legal = true ∧ fullStack.unit.Inv Config.params := by decide
theorem witness_AdvanceCountsEachInstantOnce :
    starting.unit.Inv Config.params ∧ starting.unit.lastUpdate ≤ 111 ∧ starting.unit.instantOfHistory 111 = true := by
  decide
theorem witness_AdvanceLeavesTheGoverningEntry :
    fullStack.unit.Inv Config.params ∧ fullStack.unit.lastUpdate ≤ 104 := by decide
theorem witness_AdvanceTwiceCountsNothing :
    starting.unit.Inv Config.params ∧ starting.unit.lastUpdate ≤ 102 := by decide
theorem witness_AdvancesAdd :
    starting.unit.Inv Config.params ∧ starting.unit.lastUpdate ≤ 101 ∧ (101 : Nat) ≤ 130 := by decide
theorem witness_OneShotStopsExactlyOnce :
    (unitOf oneShot5 0 (some 5)).Inv Config.params ∧ (unitOf oneShot5 0 (some 5)).pending = [] ∧
      oneShot5.phiDriven = true ∧ oneShot5.oneShot = true ∧ oneShot5.pred = some 5 ∧ (0 : Nat) < 5 ∧ (5 : Nat) ≤ 5 ∧
      (5 : Nat) ≤ 99999 := by decide
theorem witness_AdvanceMatchesPerTickMachine :
    starting.unit.Inv Config.params ∧ ¬ starting.unit.DeadOneShot ∧ starting.unit.Tracks (refOf starting.unit) ∧
      starting.unit.lastUpdate ≤ 112 := by decide
theorem witness_EveryWordIsTheCommandOfTheTable :
    (0x08FFFFFFFF00000003FF#80).toNat / 2 ^ 72 = 0x08 ∧
      (0x08FFFFFFFF00000003FF#80).toNat / 2 ^ 40 % 2 ^ 32 = 0xFFFFFFFF := by decide
theorem witness_ClockedCommandsRearmAndReport :
    ((Instr.cascadeTick 7 2).updates = true ∧ (Instr.cascadeTick 7 2).operandFault = none ∧
      (Instr.cascadeTick 7 2).clockField ≤ 4294705151) ∧
      exec (.cascadeTick 7 2) (stateOf (unitOf cascade2 0 none)) =
        .next (after (.cascadeTick 7 2) (stateOf (unitOf cascade2 0 none))) := ⟨by decide, rfl⟩
theorem witness_LatchWritesMirrorWhileStopped :
    starting.Inv ∧ starting.unit.lastUpdate ≤ 101 ∧ (101 : Nat) ≤ 4294705151 := by decide
theorem witness_ControlWritePushesAtItsLatency :
    starting.Inv ∧ starting.unit.lastUpdate ≤ 101 ∧ (101 : Nat) ≤ 4294705151 ∧ (0x05 : Byte) &&& 0xF0 = 0 ∧
      (starting.unit.advance 101).unit.top.running = true := by decide
theorem witness_CountsIgnoreControlWriteUntilItsLatency :
    (starting.Inv ∧ starting.unit.lastUpdate ≤ 101 ∧ (101 : Nat) ≤ 4294705151) ∧
      exec (.setControl 101 0) starting = .next (after (.setControl 101 0) starting) ∧
      ((after (.setControl 101 0) starting).raisedBits = 0 ∧ (101 : Nat) ≤ 102 ∧
        (102 : Nat) < 101 + (if (starting.unit.advance 101).unit.top.running && false && false then 3 else 2)) :=
  ⟨by decide, rfl, by decide⟩
/-- A restart: the clock just before `clk + 3`. -/
theorem witness_CountsIgnoreControlWriteUntilItsLatency_restart :
    exec (.setControl 101 5) starting = .next (after (.setControl 101 5) starting) ∧
      ((after (.setControl 101 5) starting).raisedBits = 0 ∧ (101 : Nat) ≤ 103 ∧
        (103 : Nat) < 101 + (if (starting.unit.advance 101).unit.top.running && (0x05 : Byte).getLsbD 0 &&
          (0x05 : Byte).getLsbD 2 then 3 else 2)) := ⟨rfl, by decide⟩
theorem witness_CascadeTickIsRepeatedSiblingTicks :
    (stateOf (unitOf cascade2 0 none)).Inv ∧ (0 : Nat) ≤ 7 ∧ (7 : Nat) ≤ 4294705151 ∧
      (TimerUnit.advance (unitOf cascade2 0 none) 7).unit.Tracks
        (refOf (TimerUnit.advance (unitOf cascade2 0 none) 7).unit) := by decide
theorem witness_RegisterReadReturnsTheLiveByte :
    RegSelect.reserved5.isReserved = true ∧ RegSelect.control.isReserved = false ∧
      (4294705151 : Nat) ≤ 4294705151 ∧ 4294705151 < (4294705152 : Nat) := by decide
theorem witness_RegisterWriteIsTheControlProtocol :
    RegSelect.countHi.isCount = true ∧ RegSelect.reserved7.isReserved = true ∧
      (4294705151 : Nat) ≤ 4294705151 ∧ 4294705151 < (4294705152 : Nat) := by decide
theorem witness_RepeatedReadChangesNothing :
    (starting.Inv ∧ starting.unit.lastUpdate ≤ 111 ∧ (111 : Nat) ≤ 4294705151 ∧
      RegSelect.countLo.isReserved = false) ∧
      exec (.regRead 111 .countLo) starting = .next (after (.regRead 111 .countLo) starting) := ⟨by decide, rfl⟩
theorem witness_ValueAtAnswersOnlyAtLastUpdate :
    4294705151 < (4294705152 : Nat) ∧ (104 : Nat) ≠ at105.unit.lastUpdate ∧ 105 = at105.unit.lastUpdate := by decide
theorem witness_AdvanceCommandReports : (4294705151 : Nat) ≤ 4294705151 ∧ 4294705151 < (4294705152 : Nat) := by decide
theorem witness_AckAlarmCountsAndRearms : (4294705151 : Nat) ≤ 4294705151 ∧ 4294705151 < (4294705152 : Nat) := by decide
theorem witness_RebaseLowersEveryClock :
    100 ≤ starting.unit.current.basis ∧ starting.unit.current.basis < 101 := by decide
theorem witness_OwnersRebaseBoundIsLegal :
    (stateOf (unitOf (stopped9 70000) 70000 none)).Inv ∧ 4465 + 65535 ≤ (70000 : Nat) := by decide
theorem witness_RebaseIsTransparent :
    (starting.Inv ∧ 100 ≤ starting.unit.current.basis ∧ (Instr.setControl 101 5).isRebase = false ∧
      100 ≤ (Instr.setControl 101 5).clockField ∧ (Instr.setControl 101 5).clockField ≤ 4294705151) ∧
      exec (.setControl 101 5) starting = .next (after (.setControl 101 5) starting) := ⟨by decide, rfl⟩
theorem witness_SnapshotRecordsTheLiveEntry :
    source.Inv ∧ source.unit.lastUpdate ≤ 35 ∧ (35 : Nat) ≤ 4294705151 := by decide
theorem witness_RestoreBuildsOneEntry :
    (0x0400090009#40 &&& 0xF400000000 ≠ 0) ∧ (0x0B00000009#40 &&& 0xF400000000 = 0) ∧
      (4294705151 : Nat) ≤ 4294705151 ∧ 4294705151 < (4294705152 : Nat) := by decide
theorem witness_SnapshotThenRestoreKeepsTheFuture :
    (source.Inv ∧ source.unit.lastUpdate ≤ 35 ∧ (35 : Nat) ≤ 4294705151) ∧
      exec (.snapshot 35) source = .next (after (.snapshot 35) source) ∧
      ((after (.snapshot 35) source).unit.pending = [] ∧
        (after (.snapshot 35) source).result = some ⟨0, 3, 0x0100040009⟩) ∧
      exec (.restore 35 0x0100040009) at105 = .next (after (.restore 35 0x0100040009) at105) :=
  ⟨by decide, rfl, by decide, rfl⟩
theorem witness_SameFutureIsUnobservable :
    ((after (.snapshot 35) source).Inv ∧ (after (.restore 35 0x0100040009) at105).Inv ∧
      (after (.snapshot 35) source).unit.SameFuture (after (.restore 35 0x0100040009) at105).unit ∧
      (Instr.setLatchLo 50 3).isRebase = false) ∧
      exec (.setLatchLo 50 3) (after (.snapshot 35) source) =
        .next (after (.setLatchLo 50 3) (after (.snapshot 35) source)) ∧
      exec (.setLatchLo 50 3) (after (.restore 35 0x0100040009) at105) =
        .next (after (.setLatchLo 50 3) (after (.restore 35 0x0100040009) at105)) := ⟨by decide, rfl, rfl⟩
theorem witness_TargetIsTheNextUnderflow :
    starting.unit.Inv Config.params ∧ starting.unit.target = some 111 ∧
      (unitOf (stopped9 5) 5 none).Inv Config.params ∧ (unitOf (stopped9 5) 5 none).target = none := by decide
theorem witness_TargetIsBounded : starting.unit.Inv Config.params ∧ starting.unit.target = some 111 := by decide
theorem witness_StoredClocksFitTheirRegisters :
    Config.params.legal = true ∧ starting.unit.Inv Config.params ∧ starting.unit.armed = some 111 := by decide
theorem witness_FaultBitsAreSticky : exec (.advance 103) at105 = .next (after (.advance 103) at105) := rfl
theorem witness_AbortChangesNothingElse :
    exec (.valueAt 104) at105 = .next (after (.valueAt 104) at105) ∧
      (after (.valueAt 104) at105).raisedBits &&& 0b1111010#7 ≠ 0 := ⟨rfl, by decide⟩
theorem witness_FaultsFollowTheTable :
    at105.Inv ∧ exec (.setControl 50 0) at105 = .next (after (.setControl 50 0) at105) := ⟨by decide, rfl⟩
theorem witness_RegressingCommandRunsAtLastUpdate :
    (at105.Inv ∧ (Instr.setControl 104 0).updates = true ∧ (Instr.setControl 104 0).operandFault = none ∧
      (Instr.setControl 104 0).clockField < at105.unit.lastUpdate) ∧
      exec ((Instr.setControl 104 0).withClock at105.unit.lastUpdate) at105 =
        .next (after (.setControl 105 0) at105) := ⟨by decide, rfl⟩
theorem witness_StepKeepsTheUnitInvariants :
    (starting.withFetchWord 80 0x05000000650000000005).Inv ∧
      step (starting.withFetchWord 80 0x05000000650000000005) =
        .next (afterWord 0x05000000650000000005 starting) := ⟨by decide, rfl⟩
theorem witness_StepKeepsOutputsInOrder :
    (source.withFetchWord 80 0x01000000230000000000).OutputsInOrder ∧
      step (source.withFetchWord 80 0x01000000230000000000) =
        .next (afterWord 0x01000000230000000000 source) := ⟨by decide, rfl⟩
theorem witness_LastUpdateNeverDecreases : exec (.advance 103) at105 = .next (after (.advance 103) at105) := rfl
theorem witness_LatchChangesOnlyByLatchWrites :
    starting.Inv ∧ exec (.regWrite 101 .control 5) starting = .next (after (.regWrite 101 .control 5) starting) :=
  ⟨by decide, rfl⟩
theorem witness_AlarmIsTheTickMachinesNextUnderflow :
    (starting.unit.Inv Config.params ∧ ¬ starting.unit.DeadOneShot ∧ starting.unit.Tracks (refOf starting.unit) ∧
      starting.unit.armed = some 111) ∧
      ((unitOf (stopped9 5) 5 none).Inv Config.params ∧ ¬ (unitOf (stopped9 5) 5 none).DeadOneShot ∧
        (unitOf (stopped9 5) 5 none).Tracks (refOf (unitOf (stopped9 5) 5 none)) ∧
        (unitOf (stopped9 5) 5 none).armed = none) := by decide
theorem witness_HostMachineTakesTheDefaults :
    (source.withFetchWord 80 0x01000000230000000000).commands = 0x01000000230000000000#80 :: [] := rfl
theorem witness_EveryLegalMachineKeepsTheInvariants :
    oneTickMachine.legal = true ∧ starting.unit.Inv oneTickMachine ∧ Config.params.legal = true ∧
      fullStack.unit.Inv Config.params := by decide
theorem witness_CommandsMatchPerTickMachine :
    starting.Inv ∧ ¬ starting.unit.DeadOneShot ∧ starting.unit.Tracks (refOf starting.unit) ∧
      (Instr.setControl 101 5).inEquivalence = true ∧ starting.unit.lastUpdate ≤ 101 ∧
      (101 : Nat) ≤ 4294705151 := by decide

end Sys2Proof.Tests
end

section
/-! SUPPORT. The timer's arithmetic, one tick at a time: the closed formulas of `40_timer_state_readback.md` R100 to
R104 against a single tick, and the projection's laws. -/

namespace Sys2Proof.Machine

-- ---------------------------------------------------------------- the count, tick by tick

theorem cascadeCount_lt {L c k : Nat} (hL : L < 2 ^ 16) (hc : c < 2 ^ 16) : cascadeCount L c k < 2 ^ 16 := by
  unfold cascadeCount
  split <;> omega

theorem cascadeCount_zero (L c : Nat) : cascadeCount L c 0 = c := by simp [cascadeCount]

theorem ofNat_half_eq_zero_iff {n : Nat} (hn : n < 2 ^ 16) : BitVec.ofNat 16 n = 0 ↔ n = 0 := by
  rw [← BitVec.toNat_inj, BitVec.toNat_ofNat, Nat.mod_eq_of_lt hn]
  rfl

theorem tickedCount_ofNat_zero (L : Half) : tickedCount L (BitVec.ofNat 16 0) = L := by simp [tickedCount]

theorem tickedCount_ofNat_succ (L : Half) {a : Nat} (ha : a + 1 < 2 ^ 16) :
    tickedCount L (BitVec.ofNat 16 (a + 1)) = BitVec.ofNat 16 a := by
  rw [tickedCount, if_neg fun h => Nat.succ_ne_zero a ((ofNat_half_eq_zero_iff ha).mp h)]
  bv_omega

/-- Where the count stands in the period one tick later. -/
theorem succ_mod_cases (a L : Nat) :
    (a % (L + 1) < L ∧ (a + 1) % (L + 1) = a % (L + 1) + 1) ∨ (a % (L + 1) = L ∧ (a + 1) % (L + 1) = 0) := by
  have hlt : a % (L + 1) < L + 1 := Nat.mod_lt _ (Nat.succ_pos L)
  rcases Nat.lt_or_ge (a % (L + 1)) L with h | h
  · refine .inl ⟨h, ?_⟩
    rw [Nat.add_mod, Nat.mod_eq_of_lt (a := 1) (by omega), Nat.mod_eq_of_lt (by omega)]
  · have heq : a % (L + 1) = L := by omega
    refine .inr ⟨heq, ?_⟩
    rw [← Nat.mod_add_mod, heq, Nat.mod_self]

/-- One more tick: reload from 0, else one less (`95_test_vectors.md` section 4). -/
theorem cascadeCount_succ (L c : Half) (k : Nat) :
    BitVec.ofNat 16 (cascadeCount L.toNat c.toNat (k + 1)) =
      tickedCount L (BitVec.ofNat 16 (cascadeCount L.toNat c.toNat k)) := by
  have hc : c.toNat < 2 ^ 16 := c.isLt
  have hL : L.toNat < 2 ^ 16 := L.isLt
  rcases Nat.lt_trichotomy k c.toNat with h | h | h
  · have hk : cascadeCount L.toNat c.toNat k = (c.toNat - (k + 1)) + 1 := by
      rw [cascadeCount, if_pos h.le]; omega
    rw [hk, tickedCount_ofNat_succ L (by omega), cascadeCount,
      if_pos (Nat.succ_le_of_lt h)]
  · have hk : cascadeCount L.toNat c.toNat k = 0 := by rw [cascadeCount, if_pos h.le]; omega
    have hk' : cascadeCount L.toNat c.toNat (k + 1) = L.toNat := by
      rw [cascadeCount, if_neg (by omega), show k + 1 - c.toNat - 1 = 0 by omega, Nat.zero_mod, Nat.sub_zero]
    rw [hk, hk', tickedCount_ofNat_zero, BitVec.ofNat_toNat, BitVec.setWidth_eq]
  · obtain ⟨a, rfl⟩ : ∃ a, k = c.toNat + 1 + a := ⟨k - c.toNat - 1, by omega⟩
    have hk : cascadeCount L.toNat c.toNat (c.toNat + 1 + a) = L.toNat - a % (L.toNat + 1) := by
      rw [cascadeCount, if_neg (by omega), show c.toNat + 1 + a - c.toNat - 1 = a by omega]
    have hk' : cascadeCount L.toNat c.toNat (c.toNat + 1 + a + 1) = L.toNat - (a + 1) % (L.toNat + 1) := by
      rw [cascadeCount, if_neg (by omega), show c.toNat + 1 + a + 1 - c.toNat - 1 = a + 1 by omega]
    rw [hk, hk']
    rcases succ_mod_cases a L.toNat with ⟨hlt, hs⟩ | ⟨heq, hs⟩
    · rw [hs, show L.toNat - a % (L.toNat + 1) = L.toNat - (a % (L.toNat + 1) + 1) + 1 by omega,
        tickedCount_ofNat_succ L (by omega)]
    · rw [hs, heq, Nat.sub_self, Nat.sub_zero, tickedCount_ofNat_zero, BitVec.ofNat_toNat, BitVec.setWidth_eq]

/-- `cascadeCount` is the closed formula of the count after `k` ticks of any driven timer: R158's `newc`, and, with
`TimerState.valueAt_basis_add`, what R100 reads back `k` ticks after the basis. -/
theorem iterate_tickedCount (L c : Half) (k : Nat) :
    (tickedCount L)^[k] c = BitVec.ofNat 16 (cascadeCount L.toNat c.toNat k) := by
  induction k with
  | zero => simp [cascadeCount_zero]
  | succ k ih => rw [Function.iterate_succ_apply', ih, cascadeCount_succ]

theorem TimerState.Predicted.pred_eq {S : TimerState} (hS : S.Predicted) (h : S.phiDriven = true) :
    S.pred = some (S.basis + S.count.toNat) := hS.trans (TimerState.prediction_of_phiDriven h)

/-- The read-back of a phi-driven timer is the closed formula of R158 with the ticks since its basis. -/
theorem TimerState.valueAt_basis_add {S : TimerState} (hS : S.Predicted) (h : S.phiDriven = true) (k : Nat) :
    S.valueAt (S.basis + k) = BitVec.ofNat 16 (cascadeCount S.latch.toNat S.count.toNat k) := by
  rcases Nat.lt_or_ge S.count.toNat k with hk | hk
  · rw [TimerState.valueAt_wrapped h (hS.pred_eq h) (by omega), cascadeCount, if_neg (by omega),
      show S.basis + k - (S.basis + S.count.toNat) - 1 = k - S.count.toNat - 1 by omega]
    rfl
  · rw [TimerState.valueAt_before h (hS.pred_eq h) (by omega), cascadeCount, if_pos hk, Nat.add_sub_add_left]

/-- R2(b): from its basis on, a phi-driven timer reads back one tick later what one tick makes of its count. -/
theorem TimerState.valueAt_succ {S : TimerState} (hS : S.Predicted) (h : S.phiDriven = true) {q : Nat}
    (hq : S.basis ≤ q) : S.valueAt (q + 1) = tickedCount S.latch (S.valueAt q) := by
  obtain ⟨k, rfl⟩ := Nat.exists_eq_add_of_le hq
  rw [Nat.add_assoc, valueAt_basis_add hS h, valueAt_basis_add hS h, cascadeCount_succ]

theorem TimerState.valueAt_basis {S : TimerState} (hS : S.Predicted) : S.valueAt S.basis = S.count := by
  rcases Bool.eq_false_or_eq_true S.phiDriven with h | h
  · simpa [cascadeCount_zero] using S.valueAt_basis_add hS h 0
  · exact S.valueAt_idle h _

/-- A phi-driven timer shows 0 at its underflow instants and nowhere else from its basis on; a one-shot timer up to its
instant (R100, R101). -/
theorem TimerState.isInstant_iff_valueAt_eq_zero {S : TimerState} (hS : S.Predicted) (h : S.phiDriven = true) {q : Nat}
    (hq : S.basis ≤ q) (ho : S.oneShot = true → q ≤ S.basis + S.count.toNat) :
    S.isInstant q = true ↔ S.valueAt q = 0 := by
  have hc : S.count.toNat < 2 ^ 16 := S.count.isLt
  have hL : S.latch.toNat < 2 ^ 16 := S.latch.isLt
  have hP := hS.pred_eq h
  rcases Nat.lt_or_ge (S.basis + S.count.toNat) q with hlt | hle
  · have hcont : S.oneShot = false := by
      rcases Bool.eq_false_or_eq_true S.oneShot with h1 | h1
      · exact absurd (ho h1) (by omega)
      · exact h1
    rw [isInstant_continuous h hcont hP, valueAt_wrapped h hP hlt]
    obtain ⟨a, rfl⟩ : ∃ a, q = S.basis + S.count.toNat + (a + 1) := ⟨q - (S.basis + S.count.toNat) - 1, by omega⟩
    rw [ofNat_half_eq_zero_iff (by omega), show S.period = S.latch.toNat + 1 from rfl, Nat.add_sub_cancel_left,
      Nat.add_sub_cancel]
    rcases succ_mod_cases a S.latch.toNat with ⟨h1, h2⟩ | ⟨h1, h2⟩ <;> omega
  · rw [valueAt_before h hP hle, ofNat_half_eq_zero_iff (by omega)]
    rcases Bool.eq_false_or_eq_true S.oneShot with h1 | h1
    · rw [isInstant_oneShot h h1 hP]
      omega
    · rw [isInstant_continuous h h1 hP, show q - (S.basis + S.count.toNat) = 0 by omega, Nat.zero_mod]
      omega

-- ---------------------------------------------------------------- the number of instants, tick by tick

theorem TimerState.cnt_self (S : TimerState) (lo : Nat) : S.cnt lo lo = 0 := by
  rcases Bool.eq_false_or_eq_true S.phiDriven with h | h
  · rcases hP : S.pred with _ | P
    · simp [cnt, hP]
    · rcases Nat.lt_or_ge lo P with hlt | hge
      · exact cnt_early hP hlt
      · rcases Bool.eq_false_or_eq_true S.oneShot with ho | ho
        · rw [cnt_oneShot h ho hP hge, if_neg (by omega)]
        · rw [cnt_continuous h ho hP hge, if_neg (by omega), Nat.sub_self]
  · exact cnt_idle h _ _

/-- R101, R102: one tick adds 1 to the count of instants exactly when the new clock is an instant. -/
theorem TimerState.cnt_succ (S : TimerState) {lo hi : Nat} (h : lo ≤ hi) :
    S.cnt lo (hi + 1) = S.cnt lo hi + if S.isInstant (hi + 1) = true then 1 else 0 := by
  rcases Bool.eq_false_or_eq_true S.phiDriven with hphi | hphi
  · rcases hP : S.pred with _ | P
    · simp [cnt, isInstant, hP]
    · rcases Bool.eq_false_or_eq_true S.oneShot with ho | ho
      · simp only [isInstant_oneShot hphi ho hP]
        rcases Nat.lt_or_ge hi P with hlt | hge
        · rw [cnt_early hP hlt]
          rcases Nat.lt_or_ge (hi + 1) P with hlt' | hge'
          · rw [cnt_early hP hlt', if_neg (by omega)]
          · rw [cnt_oneShot hphi ho hP hge', if_pos (by omega), if_pos (by omega)]
        · rw [cnt_oneShot hphi ho hP hge, cnt_oneShot hphi ho hP (by omega), if_neg (c := hi + 1 = P) (by omega),
            Nat.add_zero]
      · simp only [isInstant_continuous hphi ho hP]
        rcases Nat.lt_or_ge hi P with hlt | hge
        · rw [cnt_early hP hlt]
          rcases Nat.lt_or_ge (hi + 1) P with hlt' | hge'
          · rw [cnt_early hP hlt', if_neg (by omega)]
          · rw [cnt_continuous hphi ho hP hge', show hi + 1 - P = 0 by omega]
            simp [show lo < P by omega, hge']
        · rw [cnt_continuous hphi ho hP hge, cnt_continuous hphi ho hP (by omega), Nat.sub_add_comm hge, Nat.succ_div]
          have hmono : (lo - P) / S.period ≤ (hi - P) / S.period := Nat.div_le_div_right (Nat.sub_le_sub_right h P)
          simp only [Nat.dvd_iff_mod_eq_zero, show P ≤ hi + 1 by omega, true_and]
          generalize (lo - P) / S.period = before at hmono ⊢
          generalize (hi - P) / S.period = upTo at hmono ⊢
          split <;> split <;> omega
  · simp [cnt_idle hphi, isInstant_idle hphi]

-- ---------------------------------------------------------------- the projection

/-- The reload a projection ends at is the one whose period contains the clock (R103). -/
theorem TimerState.proj_in_period {S : TimerState} {P r t m : Nat} (h : S.phiDriven = true) (ho : S.oneShot = false)
    (hP : S.pred = some P) (hr : r = P + m * S.period + 1) (hrt : r ≤ t) (htr : t ≤ r + S.latch.toNat) :
    S.proj t = { S with basis := r, count := S.latch, pred := some (r + S.latch.toNat) } := by
  have hm : (t - P - 1) / S.period = m := by
    apply Nat.div_eq_of_lt_le
    · omega
    · have : S.period = S.latch.toNat + 1 := rfl
      rw [Nat.succ_mul]
      omega
  rw [proj_reloads h ho hP (by omega), hm, ← hr]

theorem TimerState.phiDriven_stopped (S : TimerState) (c : Half) (t : Nat) :
    ({ S with running := false, count := c, basis := t, pred := none } : TimerState).phiDriven = false := rfl

/-- R104(c): a projection keeps R22. -/
theorem TimerState.proj_predicted {S : TimerState} (hS : S.Predicted) (t : Nat) : (S.proj t).Predicted := by
  rcases proj_cases hS t with ⟨h, e⟩ | ⟨h, _, _, e⟩ | ⟨h, _, _, e⟩ | ⟨h, _, _, r, e, _⟩
  · rw [e]
    have hidle : TimerState.phiDriven { S with basis := t } = false := h
    exact (hS.trans (prediction_of_not_phiDriven h)).trans (prediction_of_not_phiDriven hidle).symm
  · rwa [e]
  · rw [e]
    rfl
  · rw [e]
    exact (prediction_of_phiDriven
      (S := { S with basis := r, count := S.latch, pred := some (r + S.latch.toNat) }) h).symm

/-- R26(e): a projected timer lies at or before its clock and has no instant in between; one that no clock drives
has its basis there. -/
theorem TimerState.proj_settled {S : TimerState} (hS : S.Predicted) {t : Nat} (ht : S.basis ≤ t) :
    (S.proj t).basis ≤ t ∧
      ((S.proj t).phiDriven = true → t ≤ (S.proj t).basis + (S.proj t).count.toNat) ∧
      ((S.proj t).phiDriven = false → (S.proj t).basis = t) := by
  rcases proj_cases hS t with ⟨h, e⟩ | ⟨h, hle, _, e⟩ | ⟨h, _, _, e⟩ | ⟨h, _, _, r, e, hrt, htr, _⟩
  · rw [e]
    exact ⟨le_rfl, fun h' => absurd (h.symm.trans h') Bool.false_ne_true, fun _ => rfl⟩
  · rw [e]
    exact ⟨ht, fun _ => hle, fun h' => absurd (h'.symm.trans h) Bool.false_ne_true⟩
  · rw [e]
    exact ⟨le_rfl, fun h' => absurd h' Bool.false_ne_true, fun _ => rfl⟩
  · rw [e]
    exact ⟨hrt, fun _ => htr, fun h' => absurd (h'.symm.trans h) Bool.false_ne_true⟩

/-- R104(d): projections compose. -/
theorem TimerState.proj_proj {S : TimerState} (hS : S.Predicted) {t1 t2 : Nat} (h12 : t1 ≤ t2) :
    (S.proj t1).proj t2 = S.proj t2 := by
  rcases proj_cases hS t1 with ⟨h, e⟩ | ⟨_, _, _, e⟩ | ⟨h, ho, hle, e⟩ | ⟨h, ho, hlt, r, e, hr1, hr2, m, hm⟩
  · rw [e, proj_idle h, proj_idle (S := { S with basis := t1 }) h]
  · rw [e]
  · rw [e, proj_idle (S.phiDriven_stopped 0 t1), proj_stops h ho (hS.pred_eq h) (by omega)]
  · have hS' : (S.proj t1).Predicted := proj_predicted hS t1
    have hP := hS.pred_eq h
    have hper : S.period = S.latch.toNat + 1 := rfl
    rw [e] at hS' ⊢
    rcases proj_cases hS' t2 with ⟨h', _⟩ | ⟨_, hle, _, e'⟩ | ⟨_, ho', _, _⟩ | ⟨_, _, _, r', e', hr1', hr2', m', hm'⟩
    · exact absurd (h'.symm.trans h) Bool.false_ne_true
    · rw [e']
      exact (proj_in_period h ho hP hm (by omega) hle).symm
    · exact absurd (ho.symm.trans ho') Bool.false_ne_true
    · have hr' : r' = S.basis + S.count.toNat + (m + 1 + m') * S.period + 1 := by
        have hm'' : r' = r + S.latch.toNat + m' * S.period + 1 := hm'
        rw [hm'', hm, Nat.add_mul, Nat.add_mul, hper]
        omega
      rw [e']
      exact (proj_in_period h ho hP hr' hr1' hr2').symm

/-- R104(e): at its own clock a projected timer shows what the timer shows; for a one-shot timer up to its instant. -/
theorem TimerState.valueAt_proj {S : TimerState} (hS : S.Predicted) {t : Nat}
    (ho : S.phiDriven = true → S.oneShot = true → t ≤ S.basis + S.count.toNat) :
    (S.proj t).valueAt t = S.valueAt t := by
  rcases proj_cases hS t with ⟨h, e⟩ | ⟨_, _, _, e⟩ | ⟨h, h1, hle, e⟩ | ⟨h, _, hlt, r, e, hr1, hr2, m, hm⟩
  · rw [e, valueAt_idle h, valueAt_idle (S := { S with basis := t }) h]
  · rw [e]
  · have ht : t = S.basis + S.count.toNat := Nat.le_antisymm (ho h h1) hle
    rw [e, valueAt_idle (S.phiDriven_stopped 0 t), valueAt_before h (hS.pred_eq h) ht.le, ht, Nat.sub_self]
    rfl
  · have hmod : (t - (S.basis + S.count.toNat) - 1) % S.period = t - r := by
      rw [show t - (S.basis + S.count.toNat) - 1 = t - r + m * S.period by omega, Nat.add_mul_mod_self_right]
      exact Nat.mod_eq_of_lt (by have : S.period = S.latch.toNat + 1 := rfl; omega)
    rw [e, valueAt_wrapped h (hS.pred_eq h) hlt, hmod,
      valueAt_before (S := { S with basis := r, count := S.latch, pred := some (r + S.latch.toNat) }) h rfl hr2]
    congr 1
    omega

/-- R104(f): a projected timer has the instants the timer has after the projection's clock. -/
theorem TimerState.isInstant_proj {S : TimerState} (hS : S.Predicted) {t q : Nat} (hq : t < q) :
    (S.proj t).isInstant q = S.isInstant q := by
  rcases proj_cases hS t with ⟨h, e⟩ | ⟨_, _, _, e⟩ | ⟨h, h1, hle, e⟩ | ⟨h, h1, hlt, r, e, hr1, hr2, m, hm⟩
  · rw [e, isInstant_idle h, isInstant_idle (S := { S with basis := t }) h]
  · rw [e]
  · have hno : S.isInstant q = false := by
      rw [Bool.eq_false_iff, ne_eq, isInstant_oneShot h h1 (hS.pred_eq h)]
      omega
    rw [e, isInstant_idle (S.phiDriven_stopped 0 t), hno]
  · have hper : S.period = S.latch.toNat + 1 := rfl
    have hshift : q - (S.basis + S.count.toNat) = q - r + 1 + m * S.period := by omega
    rw [e, Bool.eq_iff_iff, isInstant_continuous h h1 (hS.pred_eq h), hshift, Nat.add_mul_mod_self_right,
      isInstant_continuous
        (S := { S with basis := r, count := S.latch, pred := some (r + S.latch.toNat) }) h h1 rfl]
    change r + S.latch.toNat ≤ q ∧ (q - (r + S.latch.toNat)) % S.period = 0 ↔ _
    rcases Nat.lt_or_ge q (r + S.latch.toNat) with hlt' | hge
    · rw [Nat.mod_eq_of_lt (a := q - r + 1) (by omega)]
      omega
    · have hnext : q - r + 1 = q - (r + S.latch.toNat) + S.period := by omega
      rw [hnext, Nat.add_mod_right]
      omega

/-- A one-shot timer that a projection leaves running has its instant still to come. -/
theorem TimerState.proj_not_spent {S : TimerState} (hS : S.Predicted) (t : Nat) (h : (S.proj t).phiDriven = true)
    (ho : (S.proj t).oneShot = true) : (S.proj t).pred ≠ some t := by
  rcases proj_cases hS t with ⟨h', e⟩ | ⟨h', _, hlt, e⟩ | ⟨_, _, _, e⟩ | ⟨_, h1, _⟩
  · rw [e] at h
    exact absurd (h'.symm.trans h) Bool.false_ne_true
  · rw [e] at ho ⊢
    rw [hS.pred_eq h']
    have := hlt ho
    simp only [ne_eq, Option.some.injEq]
    omega
  · rw [e] at h
    exact absurd h Bool.false_ne_true
  · rw [proj_oneShot] at ho
    exact absurd (h1.symm.trans ho) Bool.false_ne_true

/-- R103, R144: a projection stops a one-shot timer exactly at an instant it has reached. -/
theorem TimerState.proj_running {S : TimerState} (hS : S.Predicted) {t : Nat}
    (ho : S.phiDriven = true → S.oneShot = true → t ≤ S.basis + S.count.toNat) :
    (S.proj t).running = (S.running && !(S.isInstant t && S.oneShot)) := by
  rcases proj_cases hS t with ⟨h, e⟩ | ⟨h, _, hlt, e⟩ | ⟨h, h1, hle, e⟩ | ⟨_, h1, _, r, e, _⟩
  · simp [e, isInstant_idle h]
  · rw [e]
    rcases Bool.eq_false_or_eq_true S.oneShot with h1 | h1
    · have hno : S.isInstant t = false := by
        rw [Bool.eq_false_iff, ne_eq, isInstant_oneShot h h1 (hS.pred_eq h)]
        exact (hlt h1).ne
      simp [hno]
    · simp [h1]
  · have hyes : S.isInstant t = true := (isInstant_oneShot h h1 (hS.pred_eq h) t).mpr (Nat.le_antisymm (ho h h1) hle)
    simp [e, hyes, h1]
  · simp [e, h1]

/-- R120: deriving looks at the predecessor only through its projection to the effective clock. -/
theorem TimerState.derive_proj {S : TimerState} (hS : S.Predicted) {t b : Nat} (h : t ≤ b) (c : Control) :
    (S.proj t).derive b c = S.derive b c := by
  simp only [derive, proj_proj hS h]

end Sys2Proof.Machine
end

section
/-! SUPPORT. The History Stack under an update: which entry an update leaves, what it counts from one clock to the next,
and that updates compose (`42_advance.md` R140 to R147). -/

namespace Sys2Proof.Machine

-- ---------------------------------------------------------------- the entry that governs a clock

@[simp] theorem governing_nil (q : Nat) (S : TimerState) : governing q S [] = S := rfl

theorem governing_cons_of_le {q : Nat} {E : TimerState} (h : E.basis ≤ q) (S : TimerState) (l : List TimerState) :
    governing q S (E :: l) = governing q E l := if_pos h

theorem governing_of_lt {q : Nat} {l : List TimerState} (h : ∀ E ∈ l, q < E.basis) (S : TimerState) :
    governing q S l = S := by
  cases l with
  | nil => rfl
  | cons E l => exact if_neg (Nat.not_le.mpr (h E (List.mem_cons_self ..)))

theorem governing_mem (q : Nat) (S : TimerState) (l : List TimerState) : governing q S l ∈ S :: l := by
  induction l generalizing S with
  | nil => simp
  | cons E l ih =>
    unfold governing
    split
    · exact List.mem_cons_of_mem _ (ih E)
    · exact List.mem_cons_self ..

theorem governing_basis_le {q : Nat} {S : TimerState} (h : S.basis ≤ q) (l : List TimerState) :
    (governing q S l).basis ≤ q := by
  induction l generalizing S with
  | nil => exact h
  | cons E l ih =>
    unfold governing
    split
    · exact ih ‹_›
    · exact h

-- ---------------------------------------------------------------- stacks with rising bases

/-- The entries of a list have strictly rising bases. -/
abbrev Rising (l : List TimerState) : Prop := l.Pairwise fun E F => E.basis < F.basis

/-- The entries a clock has not reached yet. -/
def comingAfter (T : Nat) (l : List TimerState) : List TimerState := l.filter fun E => T < E.basis

theorem mem_comingAfter {T : Nat} {l : List TimerState} {E : TimerState} :
    E ∈ comingAfter T l ↔ E ∈ l ∧ T < E.basis := by simp [comingAfter]

theorem comingAfter_of_lt {T : Nat} {l : List TimerState} (h : ∀ E ∈ l, T < E.basis) : comingAfter T l = l :=
  List.filter_eq_self.mpr fun E hE => decide_eq_true (h E hE)

theorem comingAfter_cons_of_le {T : Nat} {E : TimerState} (h : E.basis ≤ T) (l : List TimerState) :
    comingAfter T (E :: l) = comingAfter T l :=
  List.filter_cons_of_neg (by simpa using h)

theorem comingAfter_comingAfter {t1 t2 : Nat} (h : t1 ≤ t2) (l : List TimerState) :
    comingAfter t2 (comingAfter t1 l) = comingAfter t2 l := by
  unfold comingAfter
  rw [List.filter_filter]
  refine List.filter_congr fun E _ => ?_
  simp only [Bool.and_eq_decide, decide_eq_true_eq, decide_eq_decide]
  omega

/-- Where the first entry is still to come, all are. -/
theorem Rising.all_coming {T : Nat} {E : TimerState} {l : List TimerState} (h : Rising (E :: l)) (hE : T < E.basis) :
    ∀ F ∈ E :: l, T < F.basis := by
  intro F hF
  rcases List.mem_cons.mp hF with rfl | hF
  · exact hE
  · exact hE.trans (List.rel_of_pairwise_cons h hF)

-- ---------------------------------------------------------------- the collapse

/-- The loop of R142 ends at the entry that governs the clock. -/
theorem collapse_current (T lo : Nat) (S : TimerState) (l : List TimerState) :
    (collapse T lo S l).current = governing T S l := by
  induction l generalizing lo S with
  | nil => rfl
  | cons E l ih =>
    rcases Nat.lt_or_ge T E.basis with h | h
    · rw [collapse_stops lo S l h]
      exact (if_neg (Nat.not_le.mpr h)).symm
    · rw [collapse_folds lo S l h, governing_cons_of_le h]
      exact ih (E.basis - 1) E

theorem collapse_pending (T lo : Nat) (S : TimerState) {l : List TimerState} (hl : Rising l) :
    (collapse T lo S l).pending = comingAfter T l := by
  induction l generalizing lo S with
  | nil => rfl
  | cons E l ih =>
    rcases Nat.lt_or_ge T E.basis with h | h
    · rw [collapse_stops lo S l h, comingAfter_of_lt (hl.all_coming h)]
    · rw [collapse_folds lo S l h, comingAfter_cons_of_le h]
      exact ih (E.basis - 1) E hl.of_cons

/-- What an update counts from the windows it drops and the last one together. -/
def Collapsed.total (r : Collapsed) (T : Nat) : Nat := r.n + r.current.cnt r.lo T

theorem TimerUnit.advanceTo_n (u : TimerUnit) (T : Nat) :
    (u.advanceTo T).n = (collapse T u.lastUpdate u.current u.pending).total T := rfl

theorem collapse_total_of_lt (T lo : Nat) (S : TimerState) {l : List TimerState} (h : ∀ E ∈ l, T < E.basis) :
    (collapse T lo S l).total T = S.cnt lo T := by
  cases l with
  | nil => exact Nat.zero_add _
  | cons E l =>
    rw [collapse_stops lo S l (h E (List.mem_cons_self ..))]
    exact Nat.zero_add _

theorem collapse_total_folds {T : Nat} {E : TimerState} (h : E.basis ≤ T) (lo : Nat) (S : TimerState)
    (l : List TimerState) :
    (collapse T lo S (E :: l)).total T = S.cnt lo (E.basis - 1) + (collapse T (E.basis - 1) E l).total T := by
  rw [collapse_folds lo S l h]
  exact Nat.add_assoc _ _ _

/-- R140, one tick further: an update counts one underflow more exactly when the entry governing the new clock has an
instant there. -/
theorem collapse_total_succ {T lo : Nat} (S : TimerState) {l : List TimerState} (hl : Rising l) (hlo : lo ≤ T)
    (hbasis : ∀ E ∈ l, lo < E.basis) :
    (collapse (T + 1) lo S l).total (T + 1) =
      (collapse T lo S l).total T + if (governing (T + 1) S l).isInstant (T + 1) = true then 1 else 0 := by
  induction l generalizing lo S with
  | nil =>
    rw [collapse_total_of_lt _ _ _ (by simp), collapse_total_of_lt _ _ _ (by simp), governing_nil, S.cnt_succ hlo]
  | cons E l ih =>
    have hE : lo < E.basis := hbasis E (List.mem_cons_self ..)
    rcases Nat.lt_trichotomy E.basis (T + 1) with h | h | h
    · have hle : E.basis ≤ T := Nat.le_of_lt_succ h
      have hrest : ∀ F ∈ l, E.basis - 1 < F.basis := fun F hF =>
        Nat.lt_of_le_of_lt (Nat.sub_le _ _) (List.rel_of_pairwise_cons hl hF)
      rw [collapse_total_folds h.le, collapse_total_folds hle, governing_cons_of_le h.le,
        ih E hl.of_cons (by omega) hrest, Nat.add_assoc]
    · have hrest : ∀ F ∈ l, T + 1 < F.basis := fun F hF => h ▸ List.rel_of_pairwise_cons hl hF
      rw [collapse_total_folds h.le, governing_cons_of_le h.le, collapse_total_of_lt _ _ _ hrest,
        collapse_total_of_lt _ _ _ (hl.all_coming (by omega)), governing_of_lt hrest, show E.basis - 1 = T by omega,
        E.cnt_succ le_rfl, E.cnt_self, Nat.zero_add]
    · have hlater := hl.all_coming h
      rw [collapse_total_of_lt _ _ _ hlater, collapse_total_of_lt _ _ _ (hl.all_coming (Nat.lt_of_succ_lt h)),
        governing_of_lt hlater, S.cnt_succ hlo]

-- ---------------------------------------------------------------- what stays of R26(f)

/-- Entries below which a derived stack is cut off at a clock still are the derivations of what governs that clock. -/
theorem rederiveAbove_governing (T : Nat) (S : TimerState) {l : List TimerState} (hl : Rising l)
    (h : rederiveAbove S l = l) : rederiveAbove (governing T S l) (comingAfter T l) = comingAfter T l := by
  induction l generalizing S with
  | nil => rfl
  | cons E l ih =>
    rcases Nat.lt_or_ge T E.basis with hE | hE
    · rw [comingAfter_of_lt (hl.all_coming hE), governing_of_lt (hl.all_coming hE), h]
    · rw [rederiveAbove_cons, List.cons.injEq] at h
      obtain ⟨hhead, htail⟩ := h
      rw [hhead] at htail
      rw [comingAfter_cons_of_le hE, governing_cons_of_le hE]
      exact ih E hl.of_cons htail

theorem rederiveAbove_proj {S : TimerState} (hS : S.Predicted) {t : Nat} {l : List TimerState}
    (h : ∀ E ∈ l, t ≤ E.basis) : rederiveAbove (S.proj t) l = rederiveAbove S l := by
  cases l with
  | nil => rfl
  | cons E l => rw [rederiveAbove_cons, rederiveAbove_cons, TimerState.derive_proj hS (h E (List.mem_cons_self ..))]

theorem rederiveAbove_of_prefix {S : TimerState} {k l : List TimerState} (hk : k <+: l) (h : rederiveAbove S l = l) :
    rederiveAbove S k = k := by
  induction k generalizing S l with
  | nil => rfl
  | cons E k ih =>
    obtain ⟨l, rfl, hkl⟩ := List.cons_prefix_iff.mp hk
    rw [rederiveAbove_cons, List.cons.injEq] at h
    obtain ⟨hhead, htail⟩ := h
    rw [hhead] at htail
    rw [rederiveAbove_cons, hhead, ih hkl htail]

-- ---------------------------------------------------------------- a sound unit under an update

/-- The invariants of R26 that speak of the stack and `LU`: those of `TimerUnit.Inv` but the legal clock and the
mirror of the alarm. -/
structure TimerUnit.Sound (p : Params) (u : TimerUnit) : Prop where
  predicted : ∀ S ∈ u.stack, S.Predicted
  ordered : u.Ordered p
  settled : u.Settled
  derived : u.Derived

theorem TimerUnit.inv_iff {p : Params} {u : TimerUnit} :
    u.Inv p ↔ u.Sound p ∧ u.lastUpdate ≤ p.clkLimit ∧ u.armed = u.target := by
  constructor
  · rintro ⟨hpred, hord, hset, hder, hclk, harm⟩
    exact ⟨⟨hpred, hord, hset, hder⟩, hclk, harm⟩
  · rintro ⟨⟨hpred, hord, hset, hder⟩, hclk, harm⟩
    exact ⟨hpred, hord, hset, hder, hclk, harm⟩

section SoundUnit
variable {p : Params} {u : TimerUnit}

theorem TimerUnit.Sound.current_predicted (h : u.Sound p) : u.current.Predicted :=
  h.predicted _ (List.mem_cons_self ..)

theorem TimerUnit.Sound.pending_predicted (h : u.Sound p) {E : TimerState} (hE : E ∈ u.pending) : E.Predicted :=
  h.predicted _ (List.mem_cons_of_mem _ hE)

theorem TimerUnit.Sound.current_basis_le (h : u.Sound p) : u.current.basis ≤ u.lastUpdate := h.settled.1

theorem TimerUnit.Sound.rising (h : u.Sound p) : Rising u.pending := h.ordered.2

theorem TimerUnit.Sound.lt_basis (h : u.Sound p) {E : TimerState} (hE : E ∈ u.pending) : u.lastUpdate < E.basis :=
  (h.ordered.1 E hE).1

theorem TimerUnit.Sound.basis_le (h : u.Sound p) {E : TimerState} (hE : E ∈ u.pending) :
    E.basis ≤ u.lastUpdate + p.latRestart := (h.ordered.1 E hE).2

theorem TimerUnit.Sound.governing_predicted (h : u.Sound p) (q : Nat) :
    (governing q u.current u.pending).Predicted := h.predicted _ (governing_mem q _ _)

/-- A unit with the stack and `LU` of a sound one is sound, whatever `AAC` and `FAULT` hold. -/
theorem TimerUnit.Sound.congr {v : TimerUnit} (h : u.Sound p) (hc : v.current = u.current)
    (hp : v.pending = u.pending) (hl : v.lastUpdate = u.lastUpdate) : v.Sound p := by
  obtain ⟨c, l, lu, a, f⟩ := v
  cases hc
  cases hp
  cases hl
  exact ⟨h.predicted, h.ordered, h.settled, h.derived⟩

/-- R142, R144, R145: after an update the governing entry is current, projected, and the entries still to come are
pending. -/
theorem TimerUnit.Sound.advanceTo_unit (h : u.Sound p) (T : Nat) :
    (u.advanceTo T).unit =
      { u with
        current := (governing T u.current u.pending).proj T
        pending := comingAfter T u.pending
        lastUpdate := T } := by
  rw [← collapse_pending T u.lastUpdate u.current h.rising, ← collapse_current T u.lastUpdate]
  rfl

theorem TimerUnit.Sound.advanceTo_current (h : u.Sound p) (T : Nat) :
    (u.advanceTo T).unit.current = (governing T u.current u.pending).proj T := by rw [h.advanceTo_unit]

theorem TimerUnit.Sound.advanceTo_pending (h : u.Sound p) (T : Nat) :
    (u.advanceTo T).unit.pending = comingAfter T u.pending := by rw [h.advanceTo_unit]

/-- R26: an update keeps the stack sound. -/
theorem TimerUnit.Sound.advanceTo (h : u.Sound p) {T : Nat} (hT : u.lastUpdate ≤ T) : (u.advanceTo T).unit.Sound p := by
  have hG := h.governing_predicted T
  rw [h.advanceTo_unit]
  refine ⟨?_, ⟨?_, h.rising.filter _⟩, ?_, ?_⟩
  · intro S hS
    rcases List.mem_cons.mp hS with rfl | hS
    · exact TimerState.proj_predicted hG T
    · exact h.pending_predicted (mem_comingAfter.mp hS).1
  · intro E hE
    obtain ⟨hmem, hlt⟩ := mem_comingAfter.mp hE
    exact ⟨hlt, (h.basis_le hmem).trans (Nat.add_le_add_right hT _)⟩
  · exact TimerState.proj_settled hG (governing_basis_le (h.current_basis_le.trans hT) _)
  · exact (rederiveAbove_proj hG fun E hE => (mem_comingAfter.mp hE).2.le).trans
      (rederiveAbove_governing T _ h.rising h.derived)

/-- An update at any clock keeps the stack sound: a regressing one runs at `LU` (R141). -/
theorem TimerUnit.Sound.advance (h : u.Sound p) (T : Nat) : (u.advance T).unit.Sound p := by
  rcases u.advance_cases T with ⟨hT, e⟩ | ⟨_, e⟩
  · rw [e]
    exact h.advanceTo hT
  · rw [e]
    exact (h.advanceTo le_rfl).congr rfl rfl rfl

/-- What a projection to `t1` does not change of a timer, an update to `t1` does not change of the timer that governs a
later clock. -/
theorem governing_after_proj {α : Type} {t1 t2 : Nat} (h12 : t1 ≤ t2) (f : TimerState → α)
    (hf : ∀ X : TimerState, X.Predicted → f (X.proj t1) = f X) {S : TimerState} {l : List TimerState} (hl : Rising l)
    (hS : ∀ X ∈ S :: l, X.Predicted) :
    f (governing t2 ((governing t1 S l).proj t1) (comingAfter t1 l)) = f (governing t2 S l) := by
  induction l generalizing S with
  | nil => exact hf S (hS S (List.mem_cons_self ..))
  | cons E l ih =>
    rcases Nat.lt_or_ge t1 E.basis with hE | hE
    · rw [comingAfter_of_lt (hl.all_coming hE), governing_of_lt (hl.all_coming hE)]
      rcases Nat.lt_or_ge t2 E.basis with hE2 | hE2
      · rw [governing_of_lt (hl.all_coming hE2), governing_of_lt (hl.all_coming hE2)]
        exact hf S (hS S (List.mem_cons_self ..))
      · rw [governing_cons_of_le hE2, governing_cons_of_le hE2]
    · rw [comingAfter_cons_of_le hE, governing_cons_of_le hE, governing_cons_of_le (hE.trans h12)]
      exact ih hl.of_cons fun X hX => hS X (List.mem_cons_of_mem _ hX)

/-- R147(b), the state: an update by way of an earlier clock leaves the same unit. -/
theorem TimerUnit.Sound.advanceTo_advanceTo_unit (h : u.Sound p) {t1 t2 : Nat} (h1 : u.lastUpdate ≤ t1)
    (h12 : t1 ≤ t2) : ((u.advanceTo t1).unit.advanceTo t2).unit = (u.advanceTo t2).unit := by
  have hproj := governing_after_proj h12 (TimerState.proj · t2) (fun _ hX => TimerState.proj_proj hX h12) h.rising
    h.predicted
  rw [(h.advanceTo h1).advanceTo_unit, h.advanceTo_unit t1, h.advanceTo_unit t2]
  simp only [hproj, comingAfter_comingAfter h12]

/-- R140, R147(b): an update leaves the instants after its clock as they were. -/
theorem TimerUnit.Sound.advanceTo_instantOfHistory (h : u.Sound p) {T x : Nat} (hx : T < x) :
    (u.advanceTo T).unit.instantOfHistory x = u.instantOfHistory x := by
  unfold instantOfHistory
  rw [h.advanceTo_current, h.advanceTo_pending]
  exact governing_after_proj hx.le (TimerState.isInstant · x) (fun _ hX => TimerState.isInstant_proj hX hx) h.rising
    h.predicted

/-- R140, one tick further. -/
theorem TimerUnit.Sound.advanceTo_n_succ (h : u.Sound p) {T : Nat} (hT : u.lastUpdate ≤ T) :
    (u.advanceTo (T + 1)).n = (u.advanceTo T).n + if u.instantOfHistory (T + 1) = true then 1 else 0 :=
  collapse_total_succ u.current h.rising hT fun _ hE => h.lt_basis hE

/-- R147(a): an update to `LU` counts nothing. -/
theorem TimerUnit.Sound.advanceTo_self_n (h : u.Sound p) : (u.advanceTo u.lastUpdate).n = 0 := by
  rw [advanceTo_n, collapse_total_of_lt _ _ _ fun _ hE => h.lt_basis hE, TimerState.cnt_self]

end SoundUnit

end Sys2Proof.Machine
end

section
/-! SUPPORT. The alarm target's bound (`46_alarm_scheduler.md` R201), and the operations of a timer under a rebase
(`45_maintenance.md` R181). -/

namespace Sys2Proof.Machine

-- ---------------------------------------------------------------- how far away an alarm lies

/-- The next instant lies within the count in flight or one whole period. -/
theorem TimerState.nextInstant_le {S : TimerState} (hS : S.Predicted) {lo x bound : Nat}
    (h : S.nextInstant lo = some x) (hb : S.basis ≤ bound) (hlo : lo ≤ bound) : x ≤ bound + 65536 := by
  have hc : S.count.toNat < 65536 := S.count.isLt
  have hL : S.latch.toNat < 65536 := S.latch.isLt
  rcases Bool.eq_false_or_eq_true S.phiDriven with hphi | hphi
  · have hP := hS.pred_eq hphi
    rcases Nat.lt_or_ge lo (S.basis + S.count.toNat) with hlt | hge
    · rw [nextInstant_future hphi hP hlt, Option.some.injEq] at h
      omega
    · rcases Bool.eq_false_or_eq_true S.oneShot with ho | ho
      · rw [nextInstant_stopped hphi ho hP hge] at h
        exact absurd h (Option.some_ne_none x).symm
      · rw [nextInstant_reloaded hphi ho hP hge, Option.some.injEq, Nat.add_mul, Nat.one_mul] at h
        have := Nat.div_mul_le_self (lo - (S.basis + S.count.toNat)) S.period
        have : S.period = S.latch.toNat + 1 := rfl
        omega
  · rw [nextInstant_idle lo hphi] at h
    exact absurd h (Option.some_ne_none x).symm

theorem targetFrom_le {bound : Nat} {S : TimerState} {l : List TimerState} {lo x : Nat}
    (hS : ∀ X ∈ S :: l, X.Predicted ∧ X.basis ≤ bound) (hlo : lo ≤ bound) (h : targetFrom lo S l = some x) :
    x ≤ bound + 65536 := by
  obtain ⟨hpred, hb⟩ := hS S (List.mem_cons_self ..)
  induction l generalizing lo S with
  | nil => exact TimerState.nextInstant_le hpred h hb hlo
  | cons E l ih =>
    have htail : ∀ X ∈ E :: l, X.Predicted ∧ X.basis ≤ bound := fun X hX => hS X (List.mem_cons_of_mem _ hX)
    obtain ⟨hpE, hbE⟩ := htail E (List.mem_cons_self ..)
    have hnext : targetFrom (E.basis - 1) E l = some x → x ≤ bound + 65536 := fun h' =>
      ih htail ((Nat.sub_le _ _).trans hbE) h' hpE hbE
    rw [targetFrom_cons] at h
    split at h
    · exact hnext h
    · rename_i y hy
      split at h
      · cases h
        exact TimerState.nextInstant_le hpred hy hb hlo
      · exact hnext h

/-- R201(b): an alarm lies at most `LAT_RESTART + 65536` ticks after `LU`. -/
theorem TimerUnit.Sound.target_le {p : Params} {u : TimerUnit} (h : u.Sound p) {x : Nat} (hx : u.target = some x) :
    x ≤ u.lastUpdate + p.latRestart + 65536 := by
  refine targetFrom_le (fun X hX => ⟨h.predicted X hX, ?_⟩) (Nat.le_add_right _ _) hx
  rcases List.mem_cons.mp hX with rfl | hX
  · exact h.current_basis_le.trans (Nat.le_add_right _ _)
  · exact h.basis_le hX

-- ---------------------------------------------------------------- a timer state under a rebase

section Rebase
variable {S : TimerState} {K : Nat}

theorem TimerState.rebased_predicted (hS : S.Predicted) (hK : K ≤ S.basis) : (S.rebased K).Predicted := by
  rcases Bool.eq_false_or_eq_true S.phiDriven with h | h
  · have hP := hS.pred_eq h
    have h' : (S.rebased K).phiDriven = true := h
    rw [Predicted, prediction_of_phiDriven h', rebased_pred, hP, Option.map_some, rebased_basis, rebased_count]
    congr 1
    omega
  · have h' : (S.rebased K).phiDriven = false := h
    rw [Predicted, prediction_of_not_phiDriven h', rebased_pred, hS.trans (prediction_of_not_phiDriven h)]
    rfl

theorem TimerState.mkpred_rebased (S : TimerState) (hK : K ≤ S.basis) :
    (S.rebased K).mkpred = S.mkpred.rebased K := by
  have h : S.mkpred.Predicted := rfl
  have h' : (S.mkpred.rebased K).pred = (S.rebased K).prediction := rebased_predicted h hK
  unfold mkpred at h' ⊢
  rw [← h']
  rfl

/-- The projection compares its clock with `pred` only, so it goes along with both lowered. -/
theorem TimerState.proj_rebased (hP : ∀ P, S.pred = some P → K ≤ P) {t : Nat} (ht : K ≤ t) :
    (S.rebased K).proj (t - K) = (S.proj t).rebased K := by
  rcases Bool.eq_false_or_eq_true S.phiDriven with h | h
  · have h' : (S.rebased K).phiDriven = true := h
    rcases hpred : S.pred with _ | P
    · simp [proj, h, h', hpred]
    · have hKP := hP P hpred
      have hpred' : (S.rebased K).pred = some (P - K) := by simp [hpred]
      rcases Nat.lt_or_ge t P with hlt | hge
      · rw [proj_early h hpred hlt, proj_early h' hpred' (by omega)]
      · rcases Bool.eq_false_or_eq_true S.oneShot with ho | ho
        · rw [proj_stops h ho hpred hge, proj_stops h' ho hpred' (by omega)]
          rfl
        · rcases Nat.eq_or_lt_of_le hge with heq | hlt
          · rw [← heq, proj_at_pred h ho hpred, proj_at_pred h' ho hpred']
          · have hbasis : ∀ d, P - K + d + 1 = P + d + 1 - K := by omega
            have hnext : ∀ d L, P + d + 1 - K + L = P + d + 1 + L - K := by omega
            rw [proj_reloads h ho hpred hlt, proj_reloads h' ho hpred' (by omega),
              show t - K - (P - K) - 1 = t - P - 1 by omega, rebased_period, hbasis, hnext]
            rfl
  · have h' : (S.rebased K).phiDriven = false := h
    rw [proj_idle h, proj_idle h']
    rfl

theorem TimerState.valueAt_rebased (hP : ∀ P, S.pred = some P → K ≤ P) {q : Nat} (hq : K ≤ q) :
    (S.rebased K).valueAt (q - K) = S.valueAt q := by
  rcases Bool.eq_false_or_eq_true S.phiDriven with h | h
  · have h' : (S.rebased K).phiDriven = true := h
    rcases hpred : S.pred with _ | P
    · simp [valueAt, h, h', hpred]
    · have hKP := hP P hpred
      have hpred' : (S.rebased K).pred = some (P - K) := by simp [hpred]
      rcases Nat.lt_or_ge P q with hlt | hge
      · rw [valueAt_wrapped h hpred hlt, valueAt_wrapped h' hpred' (by omega),
          show q - K - (P - K) - 1 = q - P - 1 by omega]
        rfl
      · rw [valueAt_before h hpred hge, valueAt_before h' hpred' (by omega), show P - K - (q - K) = P - q by omega]
  · have h' : (S.rebased K).phiDriven = false := h
    rw [valueAt_idle h, valueAt_idle h']
    rfl

theorem TimerState.nextInstant_rebased (hP : ∀ P, S.pred = some P → K ≤ P) {lo : Nat} (hlo : K ≤ lo) :
    (S.rebased K).nextInstant (lo - K) = (S.nextInstant lo).map (· - K) := by
  rcases Bool.eq_false_or_eq_true S.phiDriven with h | h
  · have h' : (S.rebased K).phiDriven = true := h
    rcases hpred : S.pred with _ | P
    · simp [nextInstant, h, h', hpred]
    · have hKP := hP P hpred
      have hpred' : (S.rebased K).pred = some (P - K) := by simp [hpred]
      rcases Nat.lt_or_ge lo P with hlt | hge
      · rw [nextInstant_future h hpred hlt, nextInstant_future h' hpred' (by omega)]
        rfl
      · rcases Bool.eq_false_or_eq_true S.oneShot with ho | ho
        · rw [nextInstant_stopped h ho hpred hge, nextInstant_stopped h' ho hpred' (by omega)]
          rfl
        · rw [nextInstant_reloaded h ho hpred hge, nextInstant_reloaded h' ho hpred' (by omega),
            show lo - K - (P - K) = lo - P by omega, rebased_period, Option.map_some, Option.some.injEq]
          omega
  · have h' : (S.rebased K).phiDriven = false := h
    rw [nextInstant_idle lo h, nextInstant_idle _ h']
    rfl

theorem TimerState.le_pred (hS : S.Predicted) (hK : K ≤ S.basis) (P : Nat) (hP : S.pred = some P) : K ≤ P := by
  rcases Bool.eq_false_or_eq_true S.phiDriven with h | h
  · rw [hS.pred_eq h, Option.some.injEq] at hP
    omega
  · rw [hS.trans (prediction_of_not_phiDriven h)] at hP
    exact absurd hP (Option.some_ne_none P).symm

theorem TimerState.derive_rebased (hS : S.Predicted) (hK : K ≤ S.basis) {b : Nat} (hb : S.basis ≤ b) (c : Control) :
    (S.rebased K).derive (b - K) c = (S.derive b c).rebased K := by
  have hKb : K ≤ b := hK.trans hb
  have hproj := proj_rebased (le_pred hS hK) hKb
  have hQ : ∀ P, (S.proj b).pred = some P → K ≤ P := by
    intro P hP
    rcases Bool.eq_false_or_eq_true (S.proj b).phiDriven with h | h
    · have hset := (proj_settled hS hb).2.1 h
      rw [(proj_predicted hS b).pred_eq h, Option.some.injEq] at hP
      omega
    · rw [(proj_predicted hS b).trans (prediction_of_not_phiDriven h)] at hP
      exact absurd hP (Option.some_ne_none P).symm
  unfold derive
  simp only [hproj, rebased_latch, valueAt_rebased hQ hKb]
  exact mkpred_rebased { S.derive b c with pred := none } hKb

-- ---------------------------------------------------------------- the stack under a rebase

theorem rederiveAbove_rebased {l : List TimerState} (hS : ∀ X ∈ S :: l, X.Predicted) (hK : K ≤ S.basis)
    (hl : Rising (S :: l)) (hder : rederiveAbove S l = l) :
    rederiveAbove (S.rebased K) (l.map (·.rebased K)) = l.map (·.rebased K) := by
  induction l generalizing S with
  | nil => rfl
  | cons E l ih =>
    have hSE : S.basis < E.basis := List.rel_of_pairwise_cons hl (List.mem_cons_self ..)
    rw [rederiveAbove_cons, List.cons.injEq] at hder
    obtain ⟨hhead, htail⟩ := hder
    rw [hhead] at htail
    have hstep : (S.rebased K).derive (E.rebased K).basis (E.rebased K).control = E.rebased K := by
      rw [TimerState.rebased_basis, TimerState.rebased_control,
        TimerState.derive_rebased (hS S (List.mem_cons_self ..)) hK hSE.le, hhead]
    rw [List.map_cons, rederiveAbove_cons, hstep,
      ih (fun X hX => hS X (List.mem_cons_of_mem _ hX)) (hK.trans hSE.le) hl.of_cons htail]

theorem targetFrom_rebased {l : List TimerState} {lo : Nat} (hP : ∀ X ∈ S :: l, ∀ P, X.pred = some P → K ≤ P)
    (hlo : K ≤ lo) (hl : ∀ E ∈ l, K < E.basis) :
    targetFrom (lo - K) (S.rebased K) (l.map (·.rebased K)) = (targetFrom lo S l).map (· - K) := by
  induction l generalizing lo S with
  | nil => exact TimerState.nextInstant_rebased (hP S (List.mem_cons_self ..)) hlo
  | cons E l ih =>
    have hE : K < E.basis := hl E (List.mem_cons_self ..)
    have hrest : targetFrom (E.basis - K - 1) (E.rebased K) (l.map (·.rebased K)) =
        (targetFrom (E.basis - 1) E l).map (· - K) := by
      rw [Nat.sub_right_comm]
      exact ih (fun X hX => hP X (List.mem_cons_of_mem _ hX)) (Nat.le_sub_one_of_lt hE)
        fun F hF => hl F (List.mem_cons_of_mem _ hF)
    rw [List.map_cons, targetFrom_cons, targetFrom_cons,
      TimerState.nextInstant_rebased (hP S (List.mem_cons_self ..)) hlo,
      TimerState.rebased_basis, hrest]
    rcases S.nextInstant lo with _ | x
    · rfl
    · have hiff : x - K ≤ E.basis - K - 1 ↔ x ≤ E.basis - 1 := by omega
      simp only [Option.map_some, hiff]
      split
      · rfl
      · rfl

end Rebase

end Sys2Proof.Machine
end

section
/-! SUPPORT. Every command keeps the invariants of R26 at every legal choice of the parameters: first the operations on
the stack, then the shapes of a command, then the commands. -/

namespace Sys2Proof.Machine

-- ---------------------------------------------------------------- parameters

theorem params_legal_iff (p : Params) :
    p.legal = true ↔
      1 ≤ p.latSS ∧ p.latSS ≤ p.latRestart ∧ p.latRestart ≤ 3 ∧ p.clkLimit + 2 ^ 18 ≤ p.never := by
  simp [Params.legal, and_assoc]

/-- A control write becomes effective after its own clock and within `LAT_RESTART` (R155). -/
theorem latency_bounds {p : Params} (hp : p.legal = true) (topRunning : Bool) (c : Control) :
    1 ≤ latency p topRunning c ∧ latency p topRunning c ≤ p.latRestart := by
  obtain ⟨hpos, hle, _, _⟩ := (params_legal_iff p).mp hp
  unfold latency
  split
  · exact ⟨hpos.trans hle, le_rfl⟩
  · exact ⟨hpos, hle⟩

-- ---------------------------------------------------------------- the operations on the stack

theorem rederiveAbove_bases (Pr : TimerState) (l : List TimerState) :
    (rederiveAbove Pr l).map (·.basis) = l.map (·.basis) := by
  have h := congrArg (List.map Prod.fst) (rederiveAbove_keeps_changes Pr l)
  simpa only [List.map_map, Function.comp_def] using h

section Stack
variable {p : Params} {u : TimerUnit}

/-- R26(a), (c), (d) speak of the bases alone. -/
theorem TimerUnit.ordered_iff_bases :
    u.Ordered p ↔
      (∀ b ∈ u.pending.map (·.basis), u.lastUpdate < b ∧ b ≤ u.lastUpdate + p.latRestart) ∧
        (u.pending.map (·.basis)).Pairwise (· < ·) := by
  rw [List.forall_mem_map, List.pairwise_map]

/-- R122, R153, R158: another current entry in force at `LU`, with the pending entries derived again. -/
theorem TimerUnit.Sound.replaceCurrent (h : u.Sound p) {S : TimerState} (hS : S.Predicted)
    (hset : TimerUnit.Settled { u with current := S }) :
    (TimerUnit.rederive { u with current := S }).Sound p where
  predicted X hX := by
    rcases List.mem_cons.mp hX with rfl | hX
    · exact hS
    · exact rederiveAbove_predicted _ _ X hX
  ordered := by
    have hord := ordered_iff_bases.mp h.ordered
    rw [ordered_iff_bases]
    simpa only [rederive_pending, rederive_lastUpdate, rederiveAbove_bases] using hord
  settled := hset
  derived := rederiveAbove_idempotent _ _

/-- R121: a push to a clock after `LU` within `LAT_RESTART`. -/
theorem TimerUnit.Sound.push (h : u.Sound p) {b : Nat} (hb : u.lastUpdate < b)
    (hlat : b ≤ u.lastUpdate + p.latRestart) (c : Control) : (u.push b c).Sound p := by
  have hkept : ∀ E ∈ keepBefore b u.pending, E ∈ u.pending ∧ E.basis < b := fun E hE => by
    simpa [keepBefore_eq_filter b h.rising] using hE
  refine ⟨?_, ⟨?_, ?_⟩, h.settled, ?_⟩
  · intro X hX
    rcases List.mem_cons.mp hX with rfl | hX
    · exact h.current_predicted
    · rcases List.mem_append.mp hX with hX | hX
      · exact h.pending_predicted (hkept X hX).1
      · rw [List.mem_singleton.mp hX]
        exact TimerState.derive_predicted _ b c
  · intro E hE
    rcases List.mem_append.mp hE with hE | hE
    · exact h.ordered.1 E (hkept E hE).1
    · rw [List.mem_singleton.mp hE]
      exact ⟨hb, hlat⟩
  · refine List.pairwise_append.mpr
      ⟨h.rising.sublist (keepBefore_prefix b u.pending).sublist, List.pairwise_singleton _ _, fun E hE F hF => ?_⟩
    rw [List.mem_singleton.mp hF]
    exact (hkept E hE).2
  · exact rederiveAbove_append _ _ b c (rederiveAbove_of_prefix (keepBefore_prefix b u.pending) h.derived)

/-- R181: a rebase by at most the current basis. -/
theorem TimerUnit.Sound.rebased (h : u.Sound p) {K : Nat} (hK : K ≤ u.current.basis) : (u.rebased K).Sound p := by
  have hlu := h.current_basis_le
  have hbasis : ∀ E ∈ u.pending, K ≤ E.basis := fun E hE => by
    have := h.lt_basis hE
    omega
  refine ⟨?_, ⟨?_, ?_⟩, ?_, ?_⟩
  · intro X hX
    rcases List.mem_cons.mp hX with rfl | hX
    · exact TimerState.rebased_predicted h.current_predicted hK
    · obtain ⟨E, hE, rfl⟩ := List.mem_map.mp hX
      exact TimerState.rebased_predicted (h.pending_predicted hE) (hbasis E hE)
  · intro X hX
    obtain ⟨E, hE, rfl⟩ := List.mem_map.mp hX
    have := h.lt_basis hE
    have := h.basis_le hE
    simp only [rebased_lastUpdate, TimerState.rebased_basis]
    omega
  · refine List.pairwise_map.mpr (h.rising.imp_of_mem fun {E F} hE hF hlt => ?_)
    have := hbasis E hE
    simp only [TimerState.rebased_basis]
    omega
  · obtain ⟨hle, hphi, hidle⟩ := h.settled
    refine ⟨?_, fun h' => ?_, fun h' => ?_⟩
    · exact Nat.sub_le_sub_right hle K
    · have := hphi h'
      simp only [rebased_current, rebased_lastUpdate, TimerState.rebased_basis, TimerState.rebased_count]
      omega
    · exact congrArg (· - K) (hidle h')
  · exact rederiveAbove_rebased h.predicted hK
      (List.pairwise_cons.mpr ⟨fun E hE => hlu.trans_lt (h.lt_basis hE), h.rising⟩) h.derived

theorem TimerUnit.Sound.target_rebased (h : u.Sound p) {K : Nat} (hK : K ≤ u.current.basis) :
    (u.rebased K).target = u.target.map (· - K) := by
  have hlu := hK.trans h.current_basis_le
  refine targetFrom_rebased (fun X hX => ?_) hlu fun E hE => hlu.trans_lt (h.lt_basis hE)
  refine TimerState.le_pred (h.predicted X hX) ?_
  rcases List.mem_cons.mp hX with rfl | hX
  · exact hK
  · exact hlu.trans (h.lt_basis hX).le

end Stack

-- ---------------------------------------------------------------- the bodies of the commands

/-- The body of a clocked command keeps the stack sound and leaves `LU` where the update put it. -/
def Progress.BodyKeepsSound (p : Params) (body : Progress → Progress) : Prop :=
  ∀ w : Progress, w.unit.Sound p → (body w).unit.Sound p ∧ (body w).unit.lastUpdate = w.unit.lastUpdate

theorem Progress.id_keepsSound (p : Params) : Progress.BodyKeepsSound p id := fun _ h => ⟨h, rfl⟩

theorem TimerState.withLatch_predicted (S : TimerState) (L : Half) : (S.withLatch L).Predicted := rfl

theorem TimerState.running_of_phiDriven {S : TimerState} (h : S.phiDriven = true) : S.running = true :=
  (Bool.and_eq_true_iff.mp h).1

/-- R153: a latch write leaves basis and count in flight, so the entry stays settled. -/
theorem Progress.writeLatch_keepsSound (p : Params) (newlatch : Half → Half) :
    Progress.BodyKeepsSound p (Progress.writeLatch newlatch) := fun w h => by
  obtain ⟨hle, hphi, hidle⟩ := h.settled
  refine ⟨h.replaceCurrent (TimerState.withLatch_predicted _ _) ⟨hle, fun h' => ?_, hidle⟩, rfl⟩
  have hrun := TimerState.running_of_phiDriven h'
  rw [TimerState.withLatch_running] at hrun
  rw [TimerState.withLatch_count, if_pos hrun]
  exact hphi h'

/-- R155: a control write pushes within `LAT_RESTART`, or raises `STKOVF`. -/
theorem Progress.writeControl_keepsSound {p : Params} (hp : p.legal = true) (c : Control) :
    Progress.BodyKeepsSound p (Progress.writeControl p c) := fun w h => by
  obtain ⟨hpos, hle⟩ := latency_bounds hp w.unit.top.running c
  unfold Progress.writeControl
  dsimp only
  split
  · exact ⟨h.congr rfl rfl rfl, rfl⟩
  · exact ⟨h.push (by omega) (by omega) c, rfl⟩

theorem TimerState.cascaded_basis (S : TimerState) (k : Nat) : (S.cascaded k).basis = S.basis := by
  unfold cascaded
  split <;> rfl

theorem TimerState.cascaded_cascade (S : TimerState) (k : Nat) : (S.cascaded k).cascade = S.cascade := by
  unfold cascaded
  split <;> rfl

theorem TimerState.cascadeDriven_iff (S : TimerState) :
    S.cascadeDriven = true ↔ S.running = true ∧ S.cascade = true := Bool.and_eq_true_iff

theorem TimerState.not_phiDriven_of_cascade {S : TimerState} (h : S.cascade = true) : S.phiDriven = false := by
  simp [phiDriven, h]

theorem TimerState.cascaded_not_phiDriven {S : TimerState} (h : S.cascade = true) (k : Nat) :
    (S.cascaded k).phiDriven = false := not_phiDriven_of_cascade ((S.cascaded_cascade k).trans h)

/-- R158: sibling ticks leave the basis of an entry no clock drives. -/
theorem Progress.siblingTicks_keepsSound (p : Params) (k : Nat) :
    Progress.BodyKeepsSound p (Progress.siblingTicks k) := fun w h => by
  unfold Progress.siblingTicks
  dsimp only
  split
  · rename_i hdriven
    have hcas := ((TimerState.cascadeDriven_iff _).mp (Bool.and_eq_true_iff.mp hdriven).1).2
    have hbasis : (w.unit.current.cascaded k).basis = w.unit.lastUpdate :=
      (TimerState.cascaded_basis _ k).trans (h.settled.2.2 (TimerState.not_phiDriven_of_cascade hcas))
    have hidle := TimerState.cascaded_not_phiDriven hcas k
    exact ⟨h.replaceCurrent rfl ⟨hbasis.le, fun h' => absurd (hidle.symm.trans h') Bool.false_ne_true, fun _ => hbasis⟩,
      rfl⟩
  · exact ⟨h, rfl⟩

-- ---------------------------------------------------------------- the shapes of a command

section Shapes
variable {p : Params} {u : TimerUnit} {clk : Nat}

theorem TimerUnit.Inv.sound (h : u.Inv p) : u.Sound p := (TimerUnit.inv_iff.mp h).1

theorem TimerUnit.Inv.lastUpdate_le (h : u.Inv p) : u.lastUpdate ≤ p.clkLimit := (TimerUnit.inv_iff.mp h).2.1

theorem TimerUnit.Inv.armed_eq (h : u.Inv p) : u.armed = u.target := (TimerUnit.inv_iff.mp h).2.2

/-- Re-arming restores the mirror of R27. -/
theorem TimerUnit.Sound.rearm_inv (h : u.Sound p) (hclk : u.lastUpdate ≤ p.clkLimit) : u.rearm.Inv p :=
  TimerUnit.inv_iff.mpr ⟨h.congr rfl rfl rfl, hclk, rfl⟩

theorem abort_inv (h : u.Inv p) (k : FaultKind) : (abort k u).unit.Inv p :=
  TimerUnit.inv_iff.mpr ⟨h.sound.congr rfl rfl rfl, h.lastUpdate_le, h.armed_eq⟩

theorem withLegalClock_inv {run : TimerUnit → Completion} (h : u.Inv p)
    (hrun : clk ≤ p.clkLimit → (run u).unit.Inv p) : (withLegalClock p clk u run).unit.Inv p := by
  rcases Nat.lt_or_ge p.clkLimit clk with hclk | hclk
  · rw [withLegalClock_illegal u run hclk]
    exact abort_inv h .clkRange
  · rw [withLegalClock_legal u run hclk]
    exact hrun hclk

/-- Update, body, re-arm: the invariants hold again whatever `AAC` held before. -/
theorem TimerUnit.Sound.update_body_finish_inv {body : Progress → Progress} (h : u.Sound p)
    (hbody : Progress.BodyKeepsSound p body) (hlu : u.lastUpdate ≤ p.clkLimit) (hclk : clk ≤ p.clkLimit)
    (value : TimerUnit → Arg) : ((body (u.advance clk)).finish value).unit.Inv p := by
  obtain ⟨hsound, hlast⟩ := hbody _ (h.advance clk)
  refine hsound.rearm_inv ?_
  rw [hlast, TimerUnit.advance_lastUpdate]
  exact max_le hclk hlu

theorem clocked_inv {body : Progress → Progress} (h : u.Inv p) (hbody : Progress.BodyKeepsSound p body)
    (value : TimerUnit → Arg) : (clocked p clk body value u).unit.Inv p :=
  withLegalClock_inv h fun hclk => h.sound.update_body_finish_inv hbody h.lastUpdate_le hclk value

/-- A unit with one entry, predicted and with its basis at `LU`, is sound. -/
theorem TimerUnit.sound_single {S : TimerState} (hS : S.Predicted) (a : Deadline) (f : FaultBits) :
    TimerUnit.Sound p { current := S, pending := [], lastUpdate := S.basis, armed := a, fault := f } where
  predicted X hX := by rwa [List.mem_singleton.mp hX]
  ordered := ⟨fun E hE => absurd hE (List.not_mem_nil ), List.Pairwise.nil⟩
  settled := ⟨le_rfl, fun _ => Nat.le_add_right _ _, fun _ => rfl⟩
  derived := rfl

end Shapes

-- ---------------------------------------------------------------- the commands

section Commands
variable {p : Params} {u : TimerUnit} (clk : Nat)

theorem resetUnit_inv (h : u.Inv p) : (resetUnit p clk u).unit.Inv p :=
  withLegalClock_inv h fun hclk =>
    (TimerUnit.sound_single (S := TimerState.atReset clk) rfl none u.fault).rearm_inv hclk

theorem restoreUnit_inv (h : u.Inv p) (snap : Arg) : (restoreUnit p clk snap u).unit.Inv p := by
  unfold restoreUnit
  split
  · exact abort_inv h .badSnap
  · exact withLegalClock_inv h fun hclk =>
      (TimerUnit.sound_single (S := TimerState.ofRecord clk snap) rfl none u.fault).rearm_inv hclk

theorem rebaseUnit_inv (h : u.Inv p) (K : Nat) : (rebaseUnit K u).unit.Inv p := by
  unfold rebaseUnit
  split
  · exact abort_inv h .clkRange
  · rename_i hK
    have hK : K ≤ u.current.basis := Nat.not_lt.mp hK
    refine TimerUnit.inv_iff.mpr ⟨h.sound.rebased hK, (Nat.sub_le _ _).trans h.lastUpdate_le, ?_⟩
    rw [h.sound.target_rebased hK, ← h.armed_eq]
    rfl

theorem valueAtUnit_inv (h : u.Inv p) : (valueAtUnit p clk u).unit.Inv p :=
  withLegalClock_inv h fun _ => by
    split
    · exact h
    · exact abort_inv h .stale

theorem setControlUnit_inv (hp : p.legal = true) (h : u.Inv p) (data : Byte) :
    (setControlUnit p clk data u).unit.Inv p := by
  unfold setControlUnit
  split
  · exact abort_inv h .badCtrl
  · exact clocked_inv h (Progress.writeControl_keepsSound hp _) noValue

theorem ackAlarmUnit_inv (h : u.Inv p) : (ackAlarmUnit p clk u).unit.Inv p :=
  withLegalClock_inv h fun hclk =>
    (h.sound.congr (v := { u with armed := none }) rfl rfl rfl).update_body_finish_inv (Progress.id_keepsSound p)
      h.lastUpdate_le hclk noValue

theorem regReadUnit_inv (h : u.Inv p) (rs : RegSelect) : (regReadUnit p clk rs u).unit.Inv p := by
  have hread : ∀ r, (readRegister p clk r u).unit.Inv p := fun _ => clocked_inv h (Progress.id_keepsSound p) _
  cases rs with
  | countLo | countHi | latchLo | latchHi | control => exact hread _
  | reserved5 | reserved6 | reserved7 => exact abort_inv h .illOp

theorem regWriteUnit_inv (hp : p.legal = true) (h : u.Inv p) (rs : RegSelect) (data : Byte) :
    (regWriteUnit p clk rs data u).unit.Inv p := by
  cases rs with
  | countLo | countHi => exact withLegalClock_inv h fun _ => h
  | latchLo | latchHi => exact clocked_inv h (Progress.writeLatch_keepsSound p _) noValue
  | control => exact setControlUnit_inv clk hp h data
  | reserved5 | reserved6 | reserved7 => exact abort_inv h .illOp

/-- R26: every command keeps the invariants at legal parameters. -/
theorem completionOf_inv (hp : p.legal = true) (h : u.Inv p) (i : Instr) : (completionOf i u p).unit.Inv p := by
  cases i with
  | reset clk => exact resetUnit_inv clk h
  | advance clk => exact clocked_inv h (Progress.id_keepsSound p) noValue
  | valueAt clk => exact valueAtUnit_inv clk h
  | setLatchLo clk data => exact clocked_inv h (Progress.writeLatch_keepsSound p _) noValue
  | setLatchHi clk data => exact clocked_inv h (Progress.writeLatch_keepsSound p _) noValue
  | setControl clk data => exact setControlUnit_inv clk hp h data
  | ackAlarm clk => exact ackAlarmUnit_inv clk h
  | regRead clk rs => exact regReadUnit_inv clk h rs
  | regWrite clk rs data => exact regWriteUnit_inv clk hp h rs data
  | cascadeTick clk n => exact clocked_inv h (Progress.siblingTicks_keepsSound p _) noValue
  | rebase k => exact rebaseUnit_inv h k
  | snapshot clk => exact clocked_inv h (Progress.id_keepsSound p) TimerUnit.record
  | restore clk snap => exact restoreUnit_inv clk h snap

/-- Everything a presented word does at any parameters: the command it decodes to, or `ILLOP`. -/
theorem executeWord_cases (p : Params) (w : CommandWord p.clkw) (s : State) :
    (∃ i, decodeWord w = .ok i ∧ executeWord p w s = .next (s.complete (completionOf i s.unit p))) ∨
      (∃ op, decodeWord w = .error (.reservedOp op) ∧ executeWord p w s = .next s.illegalOp) := by
  unfold executeWord
  rcases hw : decodeWord w with ⟨⟨op⟩⟩ | i
  · exact .inr ⟨op, rfl, rfl⟩
  · exact .inl ⟨i, rfl, execAt_eq_complete s p i⟩

end Commands

end Sys2Proof.Machine

namespace Sys2Proof
open Machine

/-- Settles O60: each word is a command, which keeps the invariants, or raises `ILLOP` alone. -/
theorem everyLegalMachineKeepsTheInvariants : Obligations.EveryLegalMachineKeepsTheInvariants := by
  intro p w s hp h
  rcases executeWord_cases p w s with ⟨i, _, e⟩ | ⟨op, _, e⟩
  · exact ⟨_, e, completionOf_inv hp h i⟩
  · exact ⟨_, e, abort_inv h .illOp⟩

/-- Settles O47: no clock lies more than `3 + 65536` ticks after `LU`, and `CLK_LIMIT` leaves `2^18`. -/
theorem storedClocksFitTheirRegisters : Obligations.StoredClocksFitTheirRegisters := by
  intro p u hp h
  obtain ⟨_, _, hlat, hnever⟩ := (params_legal_iff p).mp hp
  have hlu := h.lastUpdate_le
  have hbasis : ∀ S ∈ u.stack, S.basis ≤ u.lastUpdate + 3 := by
    intro S hS
    rcases List.mem_cons.mp hS with rfl | hS
    · exact h.sound.current_basis_le.trans (Nat.le_add_right _ _)
    · exact (h.sound.basis_le hS).trans (Nat.add_le_add_left hlat _)
  refine ⟨by omega, fun x hx => ?_, fun S hS => ⟨?_, fun P hP => ?_⟩⟩
  · have := h.sound.target_le (h.armed_eq.symm.trans hx)
    omega
  · have := hbasis S hS
    omega
  · have hb := hbasis S hS
    have hc : S.count.toNat < 65536 := S.count.isLt
    rcases Bool.eq_false_or_eq_true S.phiDriven with hphi | hphi
    · rw [(h.sound.predicted S hS).pred_eq hphi, Option.some.injEq] at hP
      omega
    · rw [(h.sound.predicted S hS).trans (TimerState.prediction_of_not_phiDriven hphi)] at hP
      exact absurd hP (Option.some_ne_none P).symm

end Sys2Proof
end

section
/-! SUPPORT. The outputs of a command: its messages in order and its fault bits recorded (`30_encoding.md` R91,
`60_exceptions.md` R222, R232), command by command. -/

namespace Sys2Proof.Machine

-- ---------------------------------------------------------------- messages

/-- `UNDERFLOW` before `SCHEDULE`, each at most once (R232). -/
theorem wellOrdered_report (n : Nat) (os : Bool) (u : TimerUnit) :
    wellOrderedMessages (underflowMessages n os ++ u.rearmMessages) = true := by
  unfold underflowMessages
  rcases u.rearmMessages_cases with ⟨_, e⟩ | ⟨_, e⟩
  · rw [e]
    split
    · exact decide_eq_true ‹_›
    · rfl
  · rw [e]
    split
    · exact decide_eq_true ‹_›
    · rfl

theorem one_le_of_underflow_mem {l : List Message} (hl : wellOrderedMessages l = true) {n : Nat} {os : Bool}
    (h : Message.underflow n os ∈ l) : 1 ≤ n := by
  unfold wellOrderedMessages at hl
  split at hl
  · exact absurd h List.not_mem_nil
  · cases List.mem_singleton.mp h
    exact of_decide_eq_true hl
  · exact absurd (List.mem_singleton.mp h) (by simp)
  · rcases List.mem_cons.mp h with e | h
    · cases e
      exact of_decide_eq_true hl
    · exact absurd (List.mem_singleton.mp h) (by simp)
  · exact absurd hl Bool.false_ne_true

-- ---------------------------------------------------------------- fault bits

theorem and_or_self_right (a b : FaultBits) : a &&& (b ||| a) = a := by
  apply BitVec.eq_of_getLsbD_eq
  intro i _
  rw [BitVec.getLsbD_and, BitVec.getLsbD_or]
  cases a.getLsbD i <;> simp

/-- The bits a command under way has raised are set in `FAULT` (R222). -/
def Progress.FaultsRecorded (w : Progress) : Prop := w.raised &&& w.unit.fault = w.raised

theorem Progress.FaultsRecorded.raise {w : Progress} (h : w.FaultsRecorded) (k : FaultKind) :
    (w.raise k).FaultsRecorded := by
  unfold FaultsRecorded at h ⊢
  apply BitVec.eq_of_getLsbD_eq
  intro i _
  have hi := congrArg (BitVec.getLsbD · i) h
  simp only [BitVec.getLsbD_and, raise_raised, raise_unit, TimerUnit.raise_fault, BitVec.getLsbD_or] at hi ⊢
  cases k.bit.getLsbD i
  · simpa using hi
  · simp

theorem TimerUnit.advance_faultsRecorded (u : TimerUnit) (T : Nat) : (u.advance T).FaultsRecorded := by
  unfold Progress.FaultsRecorded
  rw [(u.advance_fault T).1]
  exact and_or_self_right _ _

/-- The body of a clocked command records the faults it raises. -/
def Progress.BodyRecordsFaults (body : Progress → Progress) : Prop :=
  ∀ w : Progress, w.FaultsRecorded → (body w).FaultsRecorded

theorem Progress.id_recordsFaults : Progress.BodyRecordsFaults id := fun _ h => h

theorem Progress.writeLatch_recordsFaults (newlatch : Half → Half) :
    Progress.BodyRecordsFaults (Progress.writeLatch newlatch) := fun _ h => h

theorem Progress.writeControl_recordsFaults (p : Params) (c : Control) :
    Progress.BodyRecordsFaults (Progress.writeControl p c) := fun w h => by
  unfold Progress.writeControl
  dsimp only
  split
  · exact h.raise .stkOvf
  · exact h

theorem Progress.siblingTicks_recordsFaults (k : Nat) : Progress.BodyRecordsFaults (Progress.siblingTicks k) :=
  fun w h => by
    unfold Progress.siblingTicks
    dsimp only
    split
    · exact h
    · exact h

-- ---------------------------------------------------------------- the shapes of a command

/-- The messages of a completed command are in order, and the fault bits of its result are set in `FAULT`. -/
def Completion.InOrder (c : Completion) : Prop :=
  wellOrderedMessages c.messages = true ∧ c.result.fault &&& c.unit.fault = c.result.fault

theorem State.complete_outputsInOrder {c : Completion} (h : c.InOrder) (s : State) : (s.complete c).OutputsInOrder := h

theorem abort_inOrder (k : FaultKind) (u : TimerUnit) : (abort k u).InOrder := ⟨rfl, and_or_self_right _ _⟩

theorem finishForced_inOrder (u : TimerUnit) : u.finishForced.InOrder := ⟨rfl, BitVec.zero_and⟩

theorem Progress.FaultsRecorded.finish_inOrder {w : Progress} (h : w.FaultsRecorded) (value : TimerUnit → Arg) :
    (w.finish value).InOrder := ⟨wellOrdered_report _ _ _, h⟩

theorem withLegalClock_inOrder {run : TimerUnit → Completion} (h : ∀ v, (run v).InOrder) (p : Params) (clk : Nat)
    (u : TimerUnit) : (withLegalClock p clk u run).InOrder := by
  unfold withLegalClock
  split
  · exact abort_inOrder .clkRange u
  · exact h u

theorem clocked_inOrder {body : Progress → Progress} (h : Progress.BodyRecordsFaults body) (p : Params) (clk : Nat)
    (value : TimerUnit → Arg) (u : TimerUnit) : (clocked p clk body value u).InOrder :=
  withLegalClock_inOrder (fun v => (h _ (v.advance_faultsRecorded clk)).finish_inOrder value) p clk u

-- ---------------------------------------------------------------- the commands

section Commands
variable (p : Params) (clk : Nat) (u : TimerUnit)

theorem setControlUnit_inOrder (data : Byte) : (setControlUnit p clk data u).InOrder := by
  unfold setControlUnit
  split
  · exact abort_inOrder .badCtrl u
  · exact clocked_inOrder (Progress.writeControl_recordsFaults p _) p clk noValue u

theorem restoreUnit_inOrder (snap : Arg) : (restoreUnit p clk snap u).InOrder := by
  unfold restoreUnit
  split
  · exact abort_inOrder .badSnap u
  · exact withLegalClock_inOrder (fun _ => finishForced_inOrder _) p clk u

theorem rebaseUnit_inOrder (K : Nat) : (rebaseUnit K u).InOrder := by
  unfold rebaseUnit
  split
  · exact abort_inOrder .clkRange u
  · exact ⟨rfl, BitVec.zero_and⟩

theorem valueAtUnit_inOrder : (valueAtUnit p clk u).InOrder := by
  refine withLegalClock_inOrder (fun v => ?_) p clk u
  split
  · exact ⟨rfl, BitVec.zero_and⟩
  · exact abort_inOrder .stale v

theorem regReadUnit_inOrder (rs : RegSelect) : (regReadUnit p clk rs u).InOrder := by
  cases rs with
  | countLo | countHi | latchLo | latchHi | control => exact clocked_inOrder Progress.id_recordsFaults p clk _ u
  | reserved5 | reserved6 | reserved7 => exact abort_inOrder .illOp u

theorem regWriteUnit_inOrder (rs : RegSelect) (data : Byte) : (regWriteUnit p clk rs data u).InOrder := by
  cases rs with
  | countLo | countHi => exact withLegalClock_inOrder (fun _ => ⟨rfl, BitVec.zero_and⟩) p clk u
  | latchLo | latchHi => exact clocked_inOrder (Progress.writeLatch_recordsFaults _) p clk noValue u
  | control => exact setControlUnit_inOrder p clk u data
  | reserved5 | reserved6 | reserved7 => exact abort_inOrder .illOp u

theorem completionOf_inOrder (i : Instr) : (completionOf i u p).InOrder := by
  cases i with
  | reset clk => exact withLegalClock_inOrder (fun _ => finishForced_inOrder _) p clk u
  | advance clk => exact clocked_inOrder Progress.id_recordsFaults p clk noValue u
  | valueAt clk => exact valueAtUnit_inOrder p clk u
  | setLatchLo clk data => exact clocked_inOrder (Progress.writeLatch_recordsFaults _) p clk noValue u
  | setLatchHi clk data => exact clocked_inOrder (Progress.writeLatch_recordsFaults _) p clk noValue u
  | setControl clk data => exact setControlUnit_inOrder p clk u data
  | ackAlarm clk =>
    exact withLegalClock_inOrder
      (fun v => (TimerUnit.advance_faultsRecorded { v with armed := none } clk).finish_inOrder noValue) p clk u
  | regRead clk rs => exact regReadUnit_inOrder p clk u rs
  | regWrite clk rs data => exact regWriteUnit_inOrder p clk u rs data
  | cascadeTick clk n => exact clocked_inOrder (Progress.siblingTicks_recordsFaults _) p clk noValue u
  | rebase k => exact rebaseUnit_inOrder u k
  | snapshot clk => exact clocked_inOrder Progress.id_recordsFaults p clk TimerUnit.record u
  | restore clk snap => exact restoreUnit_inOrder p clk u snap

end Commands

/-- R8, R91: what a message of an ordered output is delivered as. -/
theorem delivery_of_wellOrdered {l : List Message} (hl : wellOrderedMessages l = true) (c : Configuration)
    {d : Delivery c.params.clkw} (hd : d ∈ l.map fun m => m.delivery c) :
    (∃ n os, 1 ≤ n ∧ .underflow n os ∈ l ∧ d = .toSink c.interruptSink n os) ∨
      (∃ target, .schedule target ∈ l ∧ d = .toScheduler c.callbackToken (c.params.clockBits target)) := by
  obtain ⟨m, hm, rfl⟩ := List.mem_map.mp hd
  cases m with
  | underflow n os => exact .inl ⟨n, os, one_le_of_underflow_mem hl hm, hm, rfl⟩
  | schedule target => exact .inr ⟨target, hm, rfl⟩

end Sys2Proof.Machine

namespace Sys2Proof
open Machine

/-- Settles O54: whatever a step does, its outputs are those of a completion in order, or the old ones. -/
theorem stepKeepsOutputsInOrder : Obligations.StepKeepsOutputsInOrder := by
  intro s t hs h
  have ht : t.OutputsInOrder := by
    rcases step_cases h with ⟨_, rfl⟩ | ⟨_, rest, i, _, _, rfl⟩ | ⟨_, rest, _, _, _, rfl⟩
    · exact hs
    · exact State.complete_outputsInOrder (completionOf_inOrder _ _ i) _
    · exact State.complete_outputsInOrder (abort_inOrder .illOp _) _
  exact ⟨ht, fun c _ hd => delivery_of_wellOrdered ht.1 c hd⟩

/-- Settles O59: the dispatch of `exec` and that of `execAt` at the defaults give each command the same meaning. -/
theorem hostMachineTakesTheDefaults : Obligations.HostMachineTakesTheDefaults := by
  have hexec : ∀ (i : Instr) (s : State), exec i s = execAt Config.params i s := fun i s =>
    (exec_eq_complete s i).trans (execAt_eq_complete s Config.params i).symm
  refine ⟨⟨rfl, rfl, rfl, rfl⟩, hexec, fun s w rest hc => ?_⟩
  have hword : decodeWord (clkw := Config.params.clkw) w = decode w := rfl
  simp only [step, State.nextCommand, hc, executeWord, hword]
  rcases decode w with ⟨⟨op⟩⟩ | i
  · rfl
  · exact hexec i _

/-- Settles O13: the read-back and the iterated tick are the same closed formula. -/
theorem readBackIsTickByTick : Obligations.ReadBackIsTickByTick := fun S k hS hphi _ =>
  (TimerState.valueAt_basis_add hS hphi k).trans (iterate_tickedCount S.latch S.count k).symm

end Sys2Proof
end

section
/-! SUPPORT. The per-tick reference machine (`95_test_vectors.md` section 4) beside a unit: one tick is an update by one
clock, and so ticking to a clock is the update to it (`42_advance.md` R147(d)). -/

namespace Sys2Proof.Machine

-- ---------------------------------------------------------------- the three parts of a tick

/-- A tick, first part: the clock goes on and a phi-driven count is ticked. -/
def RefMachine.countTick (r : RefMachine) : RefMachine :=
  { r with count := if r.run && !r.cas then tickedCount r.latch r.count else r.count, t := r.t + 1 }

/-- A tick, second part: the control changes due at the clock become effective and leave the queue. -/
def RefMachine.applyDue (r : RefMachine) : RefMachine :=
  let applied := (r.pend.filter fun e => e.1 == r.t).foldl (fun q e => q.apply e.2) r
  { applied with pend := applied.pend.filter fun e => applied.t < e.1 }

/-- A tick, third part: a phi-driven count of 0 is an underflow. -/
def RefMachine.countUnderflow (r : RefMachine) : RefMachine :=
  if r.run && !r.cas && r.count == 0 then r.underflows else r

theorem RefMachine.tick_eq (r : RefMachine) : r.tick = r.countTick.applyDue.countUnderflow := rfl

theorem RefMachine.ticks_succ (n : Nat) (r : RefMachine) : r.ticks (n + 1) = (r.ticks n).tick := by
  induction n generalizing r with
  | zero => rfl
  | succ n ih => exact ih r.tick

theorem RefMachine.applyDue_of_lt {r : RefMachine} (h : ∀ e ∈ r.pend, r.t < e.1) : r.applyDue = r := by
  have hdue : (r.pend.filter fun e => e.1 == r.t) = [] :=
    List.filter_eq_nil_iff.mpr fun e he => by simpa using (h e he).ne'
  have hlater : (r.pend.filter fun e => r.t < e.1) = r.pend :=
    List.filter_eq_self.mpr fun e he => decide_eq_true (h e he)
  simp only [applyDue, hdue, List.foldl_nil, hlater]

theorem RefMachine.applyDue_cons {r : RefMachine} {c : Control} {rest : List (Nat × Control)}
    (hp : r.pend = (r.t, c) :: rest) (h : ∀ e ∈ rest, r.t < e.1) :
    r.applyDue = { r.apply c with pend := rest } := by
  have hdue : (rest.filter fun e => e.1 == r.t) = [] :=
    List.filter_eq_nil_iff.mpr fun e he => by simpa using (h e he).ne'
  have hlater : (rest.filter fun e => r.t < e.1) = rest :=
    List.filter_eq_self.mpr fun e he => decide_eq_true (h e he)
  simp [applyDue, apply, hp, hdue, hlater]

-- ---------------------------------------------------------------- what one entry shows

/-- The reference machine shows at clock `q` what the Timer State shows there: `TimerUnit.Tracks` without its pending
changes. -/
structure TimerState.Shows (S : TimerState) (q : Nat) (r : RefMachine) : Prop where
  clock : r.t = q
  count : r.count = S.valueAt q
  latch : r.latch = S.latch
  run : r.run = S.running
  os : r.os = S.oneShot
  cas : r.cas = S.cascade

/-- The control changes of pending entries, with their clocks. -/
def changesOf (l : List TimerState) : List (Nat × Control) := l.map fun E => (E.basis, E.control)

theorem TimerUnit.tracks_iff {u : TimerUnit} {r : RefMachine} :
    u.Tracks r ↔ u.current.Shows u.lastUpdate r ∧ r.pend = changesOf u.pending := by
  constructor
  · rintro ⟨hclock, hcount, hlatch, hrun, hos, hcas, hpend⟩
    exact ⟨⟨hclock, hcount, hlatch, hrun, hos, hcas⟩, hpend⟩
  · rintro ⟨⟨hclock, hcount, hlatch, hrun, hos, hcas⟩, hpend⟩
    exact ⟨hclock, hcount, hlatch, hrun, hos, hcas, hpend⟩

/-- A one-shot timer whose instant does not lie before clock `q`: it still has it, or has it at `q`. -/
def TimerState.NotSpentBefore (S : TimerState) (q : Nat) : Prop :=
  S.phiDriven = true → S.oneShot = true → q ≤ S.basis + S.count.toNat

section Shows
variable {S : TimerState} {q : Nat} {r : RefMachine}

theorem TimerState.Shows.phiDriven (h : S.Shows q r) : (r.run && !r.cas) = S.phiDriven := by
  rw [h.run, h.cas]
  rfl

theorem TimerState.Shows.countTick (h : S.Shows q r) (hS : S.Predicted) (hq : S.basis ≤ q) :
    S.Shows (q + 1) r.countTick where
  clock := congrArg (· + 1) h.clock
  count := by
    unfold RefMachine.countTick
    rw [h.phiDriven, h.latch, h.count]
    rcases Bool.eq_false_or_eq_true S.phiDriven with hphi | hphi
    · rw [if_pos hphi, valueAt_succ hS hphi hq]
    · rw [hphi, valueAt_idle hphi, valueAt_idle hphi]
      rfl
  latch := h.latch
  run := h.run
  os := h.os
  cas := h.cas

/-- R120: the entry a control change makes shows what the machine shows when the change becomes effective. -/
theorem TimerState.Shows.derive (h : S.Shows q r) (hS : S.Predicted) (hspent : S.NotSpentBefore q) (c : Control) :
    (S.derive q c).Shows q (r.apply c) where
  clock := h.clock
  count := by
    have hbasis : (S.derive q c).valueAt q = (S.derive q c).count := valueAt_basis (S.derive_predicted q c)
    rw [hbasis, derive_count, valueAt_proj hS hspent, proj_latch, ← h.count, ← h.latch]
    rfl
  latch := h.latch.trans (S.derive_latch q c).symm
  run := rfl
  os := rfl
  cas := rfl

theorem TimerState.Shows.isInstant (h : S.Shows q r) (hS : S.Predicted) (hq : S.basis ≤ q)
    (hspent : S.NotSpentBefore q) : (r.run && !r.cas && r.count == 0) = S.isInstant q := by
  rw [h.phiDriven, h.count]
  rcases Bool.eq_false_or_eq_true S.phiDriven with hphi | hphi
  · rw [Bool.eq_iff_iff, isInstant_iff_valueAt_eq_zero hS hphi hq (hspent hphi), hphi, Bool.true_and, beq_iff_eq]
  · rw [hphi, isInstant_idle hphi]
    rfl

/-- R103, R144: counting the underflow at a clock is projecting to it. -/
theorem TimerState.Shows.countUnderflow (h : S.Shows q r) (hS : S.Predicted) (hq : S.basis ≤ q)
    (hspent : S.NotSpentBefore q) :
    (S.proj q).Shows q r.countUnderflow ∧ r.countUnderflow.pend = r.pend ∧
      r.countUnderflow.ev = r.ev + if S.isInstant q = true then 1 else 0 := by
  have hcount := h.count.trans (valueAt_proj hS hspent).symm
  have hrun := proj_running hS hspent
  have hlatch := h.latch.trans (S.proj_latch q).symm
  have hos := h.os.trans (S.proj_oneShot q).symm
  have hcas := h.cas.trans (S.proj_cascade q).symm
  unfold RefMachine.countUnderflow
  rw [h.isInstant hS hq hspent]
  rcases Bool.eq_false_or_eq_true (S.isInstant q) with hi | hi
  · rw [hi] at hrun ⊢
    refine ⟨⟨h.clock, hcount, hlatch, ?_, hos, hcas⟩, rfl, rfl⟩
    rw [hrun, Bool.true_and, ← h.run, ← h.os]
    rfl
  · rw [hi] at hrun ⊢
    refine ⟨⟨h.clock, hcount, hlatch, ?_, hos, hcas⟩, rfl, rfl⟩
    rw [hrun, Bool.false_and, Bool.not_false, Bool.and_true]
    exact h.run

end Shows

-- ---------------------------------------------------------------- one tick of a unit

section Unit
variable {p : Params} {u : TimerUnit} {r : RefMachine}

/-- An update stops a one-shot timer at the instant it counts. -/
theorem TimerUnit.Sound.advanceTo_not_dead (h : u.Sound p) (T : Nat) : ¬ (u.advanceTo T).unit.DeadOneShot := by
  rintro ⟨hphi, ho, hpred⟩
  rw [h.advanceTo_current] at hphi ho hpred
  exact TimerState.proj_not_spent (h.governing_predicted T) T hphi ho hpred

theorem TimerUnit.Sound.notSpentBefore (h : u.Sound p) (hd : ¬ u.DeadOneShot) :
    u.current.NotSpentBefore (u.lastUpdate + 1) := fun hphi ho => by
  have hle := h.settled.2.1 hphi
  have hne : u.current.basis + u.current.count.toNat ≠ u.lastUpdate := fun e =>
    hd ⟨hphi, ho, (h.current_predicted.pred_eq hphi).trans (congrArg some e)⟩
  omega

/-- R147(a): an update to `LU` leaves a settled unit as it is. -/
theorem TimerUnit.Sound.advanceTo_self_unit (h : u.Sound p) (hd : ¬ u.DeadOneShot) :
    (u.advanceTo u.lastUpdate).unit = u := by
  have hlater : ∀ E ∈ u.pending, u.lastUpdate < E.basis := fun _ hE => h.lt_basis hE
  have hproj : u.current.proj u.lastUpdate = u.current := by
    obtain ⟨_, hphi, hidle⟩ := h.settled
    rcases TimerState.proj_cases h.current_predicted u.lastUpdate with
      ⟨hn, e⟩ | ⟨_, _, _, e⟩ | ⟨hp, ho, hle, _⟩ | ⟨hp, _, hlt, _⟩
    · rw [e, ← hidle hn]
    · exact e
    · exact absurd (h.notSpentBefore hd hp ho) (by omega)
    · exact absurd (hphi hp) (by omega)
  rw [h.advanceTo_unit, governing_of_lt hlater, comingAfter_of_lt hlater, hproj]

/-- After the due changes the machine shows what the entry governing the clock shows. -/
theorem TimerUnit.Sound.applyDue_shows (h : u.Sound p) (hr : u.current.Shows (u.lastUpdate + 1) r)
    (hp : r.pend = changesOf u.pending) (hspent : u.current.NotSpentBefore (u.lastUpdate + 1)) :
    (governing (u.lastUpdate + 1) u.current u.pending).Shows (u.lastUpdate + 1) r.applyDue ∧
      r.applyDue.pend = changesOf (comingAfter (u.lastUpdate + 1) u.pending) ∧ r.applyDue.ev = r.ev ∧
      (governing (u.lastUpdate + 1) u.current u.pending).NotSpentBefore (u.lastUpdate + 1) := by
  by_cases hlater : ∀ E ∈ u.pending, u.lastUpdate + 1 < E.basis
  · have hdue : ∀ e ∈ r.pend, r.t < e.1 := fun e he => by
      rw [hp] at he
      obtain ⟨E, hE, rfl⟩ := List.mem_map.mp he
      rw [hr.clock]
      exact hlater E hE
    rw [RefMachine.applyDue_of_lt hdue, governing_of_lt hlater, comingAfter_of_lt hlater]
    exact ⟨hr, hp, rfl, hspent⟩
  · obtain ⟨E, l, hpending⟩ : ∃ E l, u.pending = E :: l := by
      cases hl : u.pending with
      | nil => exact absurd (by simp [hl]) hlater
      | cons E l => exact ⟨E, l, rfl⟩
    have hrising : Rising (E :: l) := hpending ▸ h.rising
    have hbasis : E.basis = u.lastUpdate + 1 := by
      have hlt := h.lt_basis (E := E) (by simp [hpending])
      by_contra hne
      exact hlater (hpending ▸ hrising.all_coming (by omega))
    have hrest : ∀ F ∈ l, u.lastUpdate + 1 < F.basis := fun F hF => hbasis ▸ List.rel_of_pairwise_cons hrising hF
    have hderive : u.current.derive (u.lastUpdate + 1) E.control = E := by
      have hder := h.derived
      rw [Derived, hpending, rederiveAbove_cons, hbasis, List.cons.injEq] at hder
      exact hder.1
    have hE := hr.derive h.current_predicted hspent E.control
    rw [hderive] at hE
    have hpend : r.pend = (r.t, E.control) :: changesOf l := by
      rw [hp, hpending, hr.clock, ← hbasis]
      rfl
    have hdue : ∀ e ∈ changesOf l, r.t < e.1 := fun e he => by
      obtain ⟨F, hF, rfl⟩ := List.mem_map.mp he
      rw [hr.clock]
      exact hrest F hF
    rw [RefMachine.applyDue_cons hpend hdue, hpending, governing_cons_of_le hbasis.le, governing_of_lt hrest,
      comingAfter_cons_of_le hbasis.le, comingAfter_of_lt hrest]
    exact ⟨⟨hE.clock, hE.count, hE.latch, hE.run, hE.os, hE.cas⟩, rfl, rfl, fun _ _ =>
      hbasis ▸ Nat.le_add_right _ _⟩

/-- R147(d), one tick: the machine ticks, the unit is updated by one clock. -/
theorem TimerUnit.Sound.tracks_tick (h : u.Sound p) (hd : ¬ u.DeadOneShot) (ht : u.Tracks r) :
    (u.advanceTo (u.lastUpdate + 1)).unit.Tracks r.tick ∧
      r.tick.ev = r.ev + if u.instantOfHistory (u.lastUpdate + 1) = true then 1 else 0 := by
  obtain ⟨hshows, hpend⟩ := TimerUnit.tracks_iff.mp ht
  obtain ⟨hdue, hduePend, hdueEv, hspent⟩ :=
    h.applyDue_shows (hshows.countTick h.current_predicted h.current_basis_le) hpend (h.notSpentBefore hd)
  obtain ⟨hfinal, hfinalPend, hfinalEv⟩ :=
    hdue.countUnderflow (h.governing_predicted _) (governing_basis_le (by have := h.current_basis_le; omega) _) hspent
  rw [h.advanceTo_unit, RefMachine.tick_eq]
  refine ⟨TimerUnit.tracks_iff.mpr ⟨hfinal, hfinalPend.trans hduePend⟩, ?_⟩
  rw [hfinalEv, hdueEv]
  rfl

/-- R147(d): ticking the machine to a clock is the update to it, in what it shows and in the underflows it counts. -/
theorem TimerUnit.Sound.tracks_ticks (h : u.Sound p) (hd : ¬ u.DeadOneShot) (ht : u.Tracks r) (k : Nat) :
    (u.advanceTo (u.lastUpdate + k)).unit.Tracks (r.ticks k) ∧
      (r.ticks k).ev = r.ev + (u.advanceTo (u.lastUpdate + k)).n := by
  induction k with
  | zero =>
    rw [Nat.add_zero, h.advanceTo_self_unit hd, h.advanceTo_self_n]
    exact ⟨ht, rfl⟩
  | succ k ih =>
    obtain ⟨htracks, hev⟩ := ih
    have hle : u.lastUpdate ≤ u.lastUpdate + k := Nat.le_add_right _ _
    obtain ⟨hnext, hnextEv⟩ := (h.advanceTo hle).tracks_tick (h.advanceTo_not_dead _) htracks
    rw [advanceTo_lastUpdate] at hnext hnextEv
    rw [h.advanceTo_advanceTo_unit hle (Nat.le_succ _)] at hnext
    rw [h.advanceTo_instantOfHistory (Nat.lt_succ_self _)] at hnextEv
    rw [RefMachine.ticks_succ, ← Nat.add_assoc, h.advanceTo_n_succ hle]
    exact ⟨hnext, by rw [hnextEv, hev, Nat.add_assoc]⟩

theorem TimerUnit.Sound.tracks_runTo (h : u.Sound p) (hd : ¬ u.DeadOneShot) (ht : u.Tracks r) {T : Nat}
    (hT : u.lastUpdate ≤ T) :
    (u.advanceTo T).unit.Tracks (r.runTo T) ∧ (r.runTo T).ev = r.ev + (u.advanceTo T).n := by
  have hclock := (TimerUnit.tracks_iff.mp ht).1.clock
  have hk := h.tracks_ticks hd ht (T - u.lastUpdate)
  rw [Nat.add_sub_cancel' hT] at hk
  rwa [RefMachine.runTo, hclock]

end Unit

end Sys2Proof.Machine
end

section
/-! SUPPORT. The commands beside the procedures of the per-tick reference machine (`95_test_vectors.md` section 4): the
body of each does to a unit what the procedure does to a machine that shows the unit. -/

namespace Sys2Proof.Machine

-- ---------------------------------------------------------------- sibling ticks in closed form

theorem succ_div_period (a L : Nat) :
    (a + 1) / (L + 1) = a / (L + 1) + if L - a % (L + 1) = 0 then 1 else 0 := by
  rw [Nat.succ_div]
  congr 1
  have hiff : L + 1 ∣ a + 1 ↔ L - a % (L + 1) = 0 := by
    rw [Nat.dvd_iff_mod_eq_zero]
    rcases succ_mod_cases a L with ⟨hlt, hs⟩ | ⟨heq, hs⟩ <;> omega
  simp only [hiff]

/-- R158: one more sibling tick is one more underflow exactly when it leaves the count at 0. -/
theorem cascadeUnderflows_succ (L c k : Nat) :
    cascadeUnderflows c (L + 1) (k + 1) =
      cascadeUnderflows c (L + 1) k + if cascadeCount L c (k + 1) = 0 then 1 else 0 := by
  rcases Nat.eq_zero_or_pos c with rfl | hc
  · have hcount : cascadeCount L 0 (k + 1) = L - k % (L + 1) := if_neg (by omega)
    rw [hcount]
    exact succ_div_period k L
  · have hunder : ∀ j, cascadeUnderflows c (L + 1) j = if j < c then 0 else (j - c) / (L + 1) + 1 := fun _ =>
      if_pos (Nat.succ_le_of_lt hc)
    rw [hunder, hunder]
    rcases Nat.lt_trichotomy (k + 1) c with h | h | h
    · have hcount : cascadeCount L c (k + 1) = c - (k + 1) := if_pos h.le
      rw [if_pos h, if_pos (Nat.lt_of_succ_lt h), hcount, if_neg (Nat.sub_ne_zero_of_lt h)]
    · have hcount : cascadeCount L c (k + 1) = 0 := (if_pos h.le).trans (Nat.sub_eq_zero_of_le h.ge)
      rw [if_neg h.not_lt, if_pos (Nat.lt_of_succ_le h.le), hcount, if_pos rfl, h, Nat.sub_self, Nat.zero_div]
    · have hcount : cascadeCount L c (k + 1) = L - (k - c) % (L + 1) := by
        rw [cascadeCount, if_neg (Nat.not_le.mpr h), Nat.sub_right_comm, Nat.add_sub_cancel]
      rw [if_neg h.not_gt, if_neg (Nat.not_lt.mpr (Nat.le_of_lt_succ h)), hcount,
        Nat.sub_add_comm (Nat.le_of_lt_succ h), succ_div_period, Nat.add_right_comm]

theorem cascadeUnderflows_zero (L c : Nat) : cascadeUnderflows c (L + 1) 0 = 0 := by
  rcases Nat.eq_zero_or_pos c with rfl | hc
  · exact Nat.zero_div _
  · rw [cascadeUnderflows, if_pos (Nat.succ_le_of_lt hc), if_pos hc]

namespace RefMachine

theorem siblingTicks_succ (k : Nat) (r : RefMachine) : siblingTicks (k + 1) r = (siblingTicks k r).siblingTick := by
  induction k generalizing r with
  | zero => rfl
  | succ k ih => exact ih r.siblingTick

/-- R158: sibling ticks to a timer that is stopped or on the clock are dropped. -/
theorem siblingTicks_dropped {r : RefMachine} (h : (r.run && r.cas) = false) (k : Nat) : siblingTicks k r = r := by
  induction k with
  | zero => rfl
  | succ k ih => rw [siblingTicks_succ, ih, siblingTick, h, if_neg Bool.false_ne_true]

theorem siblingTick_driven {r : RefMachine} (h : (r.run && r.cas) = true) :
    r.siblingTick =
      if tickedCount r.latch r.count = 0 then
        { r with count := tickedCount r.latch r.count, ev := r.ev + 1, run := r.run && !r.os }
      else { r with count := tickedCount r.latch r.count } := by
  simp [siblingTick, h, underflows]

/-- R158: the closed formulas of a cascade timer that no underflow stops. -/
theorem siblingTicks_counting {r : RefMachine} (hdriven : (r.run && r.cas) = true) {k : Nat}
    (hos : r.os = true → cascadeUnderflows r.count.toNat (r.latch.toNat + 1) k = 0) :
    siblingTicks k r =
      { r with
        count := BitVec.ofNat 16 (cascadeCount r.latch.toNat r.count.toNat k)
        ev := r.ev + cascadeUnderflows r.count.toNat (r.latch.toNat + 1) k } := by
  induction k with
  | zero => simp [siblingTicks, cascadeCount_zero, cascadeUnderflows_zero]
  | succ k ih =>
    have hsucc := cascadeUnderflows_succ r.latch.toNat r.count.toNat k
    have hlt : cascadeCount r.latch.toNat r.count.toNat (k + 1) < 2 ^ 16 :=
      cascadeCount_lt r.latch.isLt r.count.isLt
    rw [siblingTicks_succ, ih fun ho => Nat.eq_zero_of_add_eq_zero_right (hsucc.symm.trans (hos ho))]
    refine (siblingTick_driven (by exact hdriven)).trans ?_
    simp only [← cascadeCount_succ, ofNat_half_eq_zero_iff hlt]
    split
    · rename_i hzero
      rw [if_pos hzero] at hsucc
      have hcont : r.os = false := Bool.eq_false_iff.mpr fun ho => by
        have := hos ho
        omega
      rw [hsucc, hcont, Bool.not_false, Bool.and_true, Nat.add_assoc]
    · rename_i hzero
      rw [if_neg hzero] at hsucc
      rw [hsucc]
      rfl

/-- R158: a one-shot cascade timer stops at its first underflow with count 0, and drops the other ticks. -/
theorem siblingTicks_stopping {r : RefMachine} (hdriven : (r.run && r.cas) = true) (hos : r.os = true) {k : Nat}
    (hk : 1 ≤ cascadeUnderflows r.count.toNat (r.latch.toNat + 1) k) :
    siblingTicks k r = { r with count := 0, ev := r.ev + 1, run := false } := by
  induction k with
  | zero => exact absurd hk (by rw [cascadeUnderflows_zero]; exact Nat.not_succ_le_zero 0)
  | succ k ih =>
    rw [siblingTicks_succ]
    rcases Nat.eq_zero_or_pos (cascadeUnderflows r.count.toNat (r.latch.toNat + 1) k) with hnone | hsome
    · have hlast : cascadeCount r.latch.toNat r.count.toNat (k + 1) = 0 := by
        by_contra hne
        rw [cascadeUnderflows_succ, hnone, if_neg hne] at hk
        exact absurd hk (Nat.not_succ_le_zero 0)
      rw [siblingTicks_counting hdriven fun _ => hnone]
      refine (siblingTick_driven (by exact hdriven)).trans ?_
      simp only [← cascadeCount_succ, hlast, hnone, hos]
      simp
    · rw [ih hsome, siblingTick]
      simp

end RefMachine

-- ---------------------------------------------------------------- the newest control change

theorem newest_eq_getLast? (S : TimerState) (l : List TimerState) : newest S l = l.getLast?.getD S := by
  induction l generalizing S with
  | nil => rfl
  | cons E l ih => rw [newest_cons, ih, List.getLast?_cons, Option.getD_some]

/-- R155: the machine finds the same newest entry running. -/
theorem TimerUnit.topRun_of_tracks {u : TimerUnit} {r : RefMachine} (ht : u.Tracks r) :
    r.topRun = u.top.running := by
  obtain ⟨hshows, hpend⟩ := TimerUnit.tracks_iff.mp ht
  rw [RefMachine.topRun, hpend, changesOf, List.getLast?_map, top, newest_eq_getLast?]
  rcases u.pending.getLast? with _ | E
  · exact hshows.run
  · rfl

/-- R124, R225: at most two rising bases lie strictly between `LU` and a clock at most 3 ticks later, so a control write
finds room. -/
theorem TimerUnit.Sound.not_pushOverflows {p : Params} {u : TimerUnit} (h : u.Sound p) {b : Nat}
    (hb : b ≤ u.lastUpdate + 3) : u.pushOverflows b = false := by
  have hkept := keepBefore_eq_filter b h.rising
  have hmem : ∀ E ∈ keepBefore b u.pending, u.lastUpdate < E.basis ∧ E.basis < b := fun E hE => by
    rw [hkept] at hE
    obtain ⟨hE, hlt⟩ := List.mem_filter.mp hE
    exact ⟨h.lt_basis hE, of_decide_eq_true hlt⟩
  have hrising : Rising (keepBefore b u.pending) := h.rising.sublist (keepBefore_prefix b u.pending).sublist
  unfold pushOverflows
  rw [decide_eq_false_iff_not]
  match hl : keepBefore b u.pending with
  | [] => simp [depth]
  | [_] => simp [depth]
  | [_, _] => simp [depth]
  | E :: F :: G :: rest =>
    rw [hl] at hmem hrising
    have hEF := List.rel_of_pairwise_cons hrising (a' := F) (by simp)
    have hFG := List.rel_of_pairwise_cons hrising.of_cons (a' := G) (by simp)
    have hE := hmem E (by simp)
    have hG := hmem G (by simp)
    omega

-- ---------------------------------------------------------------- the bodies of the commands

/-- The body of a clocked command does to the unit what `proc` does to a machine that shows it, counts that machine's
underflows, and makes no dead one-shot. -/
def Progress.BodyMatches (body : Progress → Progress) (proc : RefMachine → RefMachine) : Prop :=
  ∀ (w : Progress) (r : RefMachine), w.unit.Sound Config.params → ¬ w.unit.DeadOneShot → w.unit.Tracks r →
    (body w).unit.Tracks (proc r) ∧ (proc r).ev + w.n = r.ev + (body w).n ∧ ¬ (body w).unit.DeadOneShot

theorem Progress.id_matches : Progress.BodyMatches id id := fun _ _ _ hd ht => ⟨ht, rfl, hd⟩

theorem TimerState.withLatch_valueAt {S : TimerState} (hS : S.Predicted) {q : Nat}
    (hq : S.phiDriven = true → q ≤ S.basis + S.count.toNat) (L : Half) :
    (S.withLatch L).valueAt q = if S.running then S.valueAt q else L := by
  rcases Bool.eq_false_or_eq_true S.phiDriven with h | h
  · have hrun := running_of_phiDriven h
    have hcount : (S.withLatch L).count = S.count := by rw [withLatch_count, if_pos hrun]
    have hP := (S.withLatch_predicted L).pred_eq h
    rw [hcount, withLatch_basis] at hP
    rw [if_pos hrun, valueAt_before (S := S.withLatch L) h hP (hq h), valueAt_before h (hS.pred_eq h) (hq h)]
  · rw [valueAt_idle (S := S.withLatch L) h, valueAt_idle h, withLatch_count]

theorem TimerState.withLatch_pred {S : TimerState} (hS : S.Predicted) (h : S.phiDriven = true) (L : Half) :
    (S.withLatch L).pred = S.pred := by
  have hP := (S.withLatch_predicted L).pred_eq h
  rw [withLatch_count, if_pos (running_of_phiDriven h), withLatch_basis] at hP
  rw [hP, hS.pred_eq h]

/-- R153: the latch write with its idle mirror. -/
theorem Progress.writeLatch_matches (newlatch : Half → Half) :
    Progress.BodyMatches (Progress.writeLatch newlatch) fun r => r.latchWrite (newlatch r.latch) :=
  fun w r h hd ht => by
  obtain ⟨hshows, hpend⟩ := TimerUnit.tracks_iff.mp ht
  have hvalue := TimerState.withLatch_valueAt h.current_predicted h.settled.2.1 (newlatch w.unit.current.latch)
  have hnew : newlatch r.latch = newlatch w.unit.current.latch := congrArg newlatch hshows.latch
  refine ⟨TimerUnit.tracks_iff.mpr ⟨⟨hshows.clock, ?_, hnew, hshows.run, hshows.os, hshows.cas⟩, ?_⟩, rfl, ?_⟩
  · refine Eq.trans ?_ hvalue.symm
    dsimp only [RefMachine.latchWrite]
    rw [hnew, hshows.run, hshows.count]
  · exact hpend.trans (rederiveAbove_keeps_changes _ _).symm
  · rintro ⟨hphi, ho, hpred⟩
    exact hd ⟨hphi, ho, (TimerState.withLatch_pred h.current_predicted hphi _).symm.trans hpred⟩

/-- R155: the control write queues its change at the same clock, over the same entries. -/
theorem Progress.writeControl_matches (c : Control) :
    Progress.BodyMatches (Progress.writeControl Config.params c) fun r => r.controlWrite c := fun w r h hd ht => by
  obtain ⟨hshows, hpend⟩ := TimerUnit.tracks_iff.mp ht
  have hlat := (latency_bounds params_legal w.unit.top.running c).2
  have hfits := h.not_pushOverflows (b := w.unit.lastUpdate + latency Config.params w.unit.top.running c)
    (Nat.add_le_add_left hlat _)
  have hbody : w.writeControl Config.params c =
      { w with unit := w.unit.push (w.unit.lastUpdate + latency Config.params w.unit.top.running c) c } := by
    simp [Progress.writeControl, hfits]
  rw [hbody]
  refine ⟨TimerUnit.tracks_iff.mpr
    ⟨⟨hshows.clock, hshows.count, hshows.latch, hshows.run, hshows.os, hshows.cas⟩, ?_⟩, rfl, hd⟩
  simp only [RefMachine.controlWrite, TimerUnit.topRun_of_tracks ht, hpend, hshows.clock, TimerUnit.push, changesOf,
    keepBefore_eq_filter _ h.rising, List.map_append, List.filter_map, List.map_cons, List.map_nil,
    TimerState.derive_basis, TimerState.derive_control, Function.comp_def]

theorem TimerState.cascaded_of_stops {S : TimerState} {k : Nat} (h : S.cascadeStops k = true) :
    S.cascaded k = TimerState.mkpred { S with count := 0, running := false } := by simp [cascaded, h]

theorem TimerState.cascaded_of_counts {S : TimerState} {k : Nat} (h : S.cascadeStops k = false) :
    S.cascaded k =
      TimerState.mkpred { S with count := BitVec.ofNat 16 (cascadeCount S.latch.toNat S.count.toNat k) } := by
  simp [cascaded, h]

theorem TimerState.cascadeStops_iff (S : TimerState) (k : Nat) :
    S.cascadeStops k = true ↔ S.oneShot = true ∧ 1 ≤ cascadeUnderflows S.count.toNat S.period k := by
  simp [cascadeStops]

/-- R158: `k` sibling ticks to a cascade timer, on both sides. -/
theorem TimerState.Shows.siblingTicks {S : TimerState} {q : Nat} {r : RefMachine} (h : S.Shows q r)
    (hdriven : S.cascadeDriven = true) (k : Nat) :
    (S.cascaded k).Shows q (RefMachine.siblingTicks k r) ∧ (RefMachine.siblingTicks k r).pend = r.pend ∧
      (RefMachine.siblingTicks k r).ev =
        r.ev + if S.cascadeStops k then 1 else cascadeUnderflows S.count.toNat S.period k := by
  obtain ⟨hrun, hcas⟩ := S.cascadeDriven_iff.mp hdriven
  have hr : (r.run && r.cas) = true := by rw [h.run, h.cas, hrun, hcas, Bool.and_self]
  have hcount : r.count = S.count := h.count.trans (valueAt_idle (not_phiDriven_of_cascade hcas) q)
  have hidle := valueAt_idle (cascaded_not_phiDriven hcas k) q
  have hper : S.period = r.latch.toNat + 1 := by rw [h.latch]; rfl
  have hstops := S.cascadeStops_iff k
  rw [← hcount, hper] at hstops ⊢
  rcases Bool.eq_false_or_eq_true (S.cascadeStops k) with hs | hs
  · obtain ⟨ho, hk⟩ := hstops.mp hs
    rw [cascaded_of_stops hs] at hidle
    rw [cascaded_of_stops hs, if_pos hs, RefMachine.siblingTicks_stopping hr (h.os.trans ho) hk]
    exact ⟨⟨h.clock, hidle.symm, h.latch, rfl, h.os, h.cas⟩, rfl, rfl⟩
  · have hos : r.os = true → cascadeUnderflows r.count.toNat (r.latch.toNat + 1) k = 0 := fun ho => by
      by_contra hne
      exact Bool.false_ne_true (hs.symm.trans (hstops.mpr ⟨h.os.symm.trans ho, Nat.one_le_iff_ne_zero.mpr hne⟩))
    rw [cascaded_of_counts hs] at hidle
    rw [cascaded_of_counts hs, if_neg (Bool.eq_false_iff.mp hs), RefMachine.siblingTicks_counting hr hos, hcount,
      h.latch]
    exact ⟨⟨h.clock, hidle.symm, rfl, h.run, h.os, h.cas⟩, rfl, rfl⟩

theorem Progress.siblingTicks_matches (k : Nat) :
    Progress.BodyMatches (Progress.siblingTicks k) (RefMachine.siblingTicks k) := fun w r h hd ht => by
  obtain ⟨hshows, hpend⟩ := TimerUnit.tracks_iff.mp ht
  unfold Progress.siblingTicks
  dsimp only
  split
  · rename_i hdriven
    obtain ⟨hdriven, _⟩ := Bool.and_eq_true_iff.mp hdriven
    have hcas := ((TimerState.cascadeDriven_iff _).mp hdriven).2
    obtain ⟨hticked, htickedPend, htickedEv⟩ := hshows.siblingTicks hdriven k
    refine ⟨TimerUnit.tracks_iff.mpr ⟨hticked, ?_⟩, ?_, fun hdead => ?_⟩
    · exact (htickedPend.trans hpend).trans (rederiveAbove_keeps_changes _ _).symm
    · rw [htickedEv]
      dsimp only
      omega
    · exact Bool.false_ne_true ((TimerState.cascaded_not_phiDriven hcas k).symm.trans hdead.1)
  · rename_i hdriven
    have hsame : RefMachine.siblingTicks k r = r := by
      rcases Nat.eq_zero_or_pos k with rfl | hk
      · rfl
      · refine RefMachine.siblingTicks_dropped (Bool.eq_false_iff.mpr fun hr => hdriven ?_) k
        rw [hshows.run, hshows.cas] at hr
        exact Bool.and_eq_true_iff.mpr ⟨hr, decide_eq_true hk⟩
    rw [hsame]
    exact ⟨ht, rfl, hd⟩

-- ---------------------------------------------------------------- the commands

/-- A completed command shows what the machine shows that went from `r` to `r'`, and its `n` is the growth of the
machine's event count. -/
def Completion.Matches (c : Completion) (r r' : RefMachine) : Prop :=
  c.unit.Tracks r' ∧ r'.ev = r.ev + c.result.n ∧ ¬ c.unit.DeadOneShot

theorem TimerUnit.Sound.update_body_finish_matches {u : TimerUnit} {r : RefMachine} {clk : Nat}
    {body : Progress → Progress} {proc : RefMachine → RefMachine} (h : u.Sound Config.params) (hd : ¬ u.DeadOneShot)
    (ht : u.Tracks r) (hbody : Progress.BodyMatches body proc) (hclk : u.lastUpdate ≤ clk) (value : TimerUnit → Arg) :
    ((body (u.advance clk)).finish value).Matches r (proc (r.runTo clk)) := by
  obtain ⟨hupdate, hupdateEv⟩ := h.tracks_runTo hd ht hclk
  rw [TimerUnit.advance_forward hclk]
  obtain ⟨htracks, hev, hdead⟩ := hbody _ _ (h.advanceTo hclk) (h.advanceTo_not_dead clk) hupdate
  refine ⟨htracks, ?_, hdead⟩
  rw [Progress.finish_n]
  omega

theorem clocked_matches {u : TimerUnit} {r : RefMachine} {clk : Nat} {body : Progress → Progress}
    {proc : RefMachine → RefMachine} (h : u.Sound Config.params) (hd : ¬ u.DeadOneShot) (ht : u.Tracks r)
    (hclk : u.lastUpdate ≤ clk) (hlegal : clk ≤ Config.params.clkLimit) (hbody : Progress.BodyMatches body proc)
    (value : TimerUnit → Arg) : (clocked Config.params clk body value u).Matches r (proc (r.runTo clk)) := by
  rw [clocked_legal u body value hlegal]
  exact h.update_body_finish_matches hd ht hbody hclk value

/-- Section 4, (1) and (2), for every command of the equivalence. -/
theorem completionOf_matches {u : TimerUnit} {r : RefMachine} {i : Instr} (h : u.Sound Config.params)
    (hd : ¬ u.DeadOneShot) (ht : u.Tracks r) (hi : i.inEquivalence = true) (hclk : u.lastUpdate ≤ i.clockField)
    (hlegal : i.clockField ≤ Config.params.clkLimit) : (completionOf i u).Matches r (r.perform i) := by
  cases i with
  | advance clk => exact clocked_matches h hd ht hclk hlegal Progress.id_matches noValue
  | setLatchLo clk data => exact clocked_matches h hd ht hclk hlegal (Progress.writeLatch_matches _) noValue
  | setLatchHi clk data => exact clocked_matches h hd ht hclk hlegal (Progress.writeLatch_matches _) noValue
  | setControl clk data =>
    have hwell : controlMalformed data = false := Bool.not_eq_true' _ ▸ hi
    have hunit : completionOf (.setControl clk data) u =
        clocked Config.params clk (Progress.writeControl Config.params (decodeControl data)) noValue u := by
      simp [completionOf, setControlUnit, hwell]
    rw [hunit]
    exact clocked_matches h hd ht hclk hlegal (Progress.writeControl_matches _) noValue
  | ackAlarm clk =>
    have hunit : completionOf (.ackAlarm clk) u =
        (TimerUnit.advance { u with armed := none } clk).finish noValue := 
      withLegalClock_legal u (fun v => (TimerUnit.advance { v with armed := none } clk).finish noValue) hlegal
    rw [hunit]
    have harmed : TimerUnit.Sound Config.params { u with armed := none } := h.congr rfl rfl rfl
    exact harmed.update_body_finish_matches hd ht Progress.id_matches hclk noValue
  | cascadeTick clk n => exact clocked_matches h hd ht hclk hlegal (Progress.siblingTicks_matches _) noValue
  | regRead clk rs =>
    cases rs with
    | countLo | countHi | latchLo | latchHi | control =>
      exact clocked_matches h hd ht hclk hlegal Progress.id_matches _
    | reserved5 | reserved6 | reserved7 => exact absurd hi Bool.false_ne_true
  | reset | valueAt | regWrite | rebase | snapshot | restore => exact absurd hi Bool.false_ne_true

end Sys2Proof.Machine

namespace Sys2Proof
open Machine

/-- Settles O57: ticking to the clock is the update, and the body of each command is the machine's procedure. -/
theorem commandsMatchPerTickMachine : Obligations.CommandsMatchPerTickMachine := by
  intro i s r h hd ht hi hclk hlegal
  obtain ⟨htracks, hev, hdead⟩ := completionOf_matches h.sound hd ht hi hclk hlegal
  exact ⟨_, _, exec_eq_complete s i, rfl, htracks, hev, hdead⟩

end Sys2Proof
end

section
/-! SUPPORT. What a command can do to a unit, said once for all commands: it is refused, shows something and leaves the
unit alone, runs its body on the updated unit, or writes the unit anew (`43_control_protocol.md` R150,
`45_maintenance.md` R180 to R183); and what of a unit that leaves as it was. -/

namespace Sys2Proof.Machine

-- ---------------------------------------------------------------- the shapes of all commands

/-- What a command that updates does between its update and its report: step 3 of R150. -/
def bodyOf (p : Params) : Instr → Progress → Progress
  | .setLatchLo _ data => Progress.writeLatch (withLowByte · data)
  | .setLatchHi _ data => Progress.writeLatch (withHighByte · data)
  | .setControl _ data => Progress.writeControl p (decodeControl data)
  | .cascadeTick _ n => Progress.siblingTicks n.toNat
  | .regWrite _ .latchLo data => Progress.writeLatch (withLowByte · data)
  | .regWrite _ .latchHi data => Progress.writeLatch (withHighByte · data)
  | .regWrite _ .control data => Progress.writeControl p (decodeControl data)
  | _ => id

/-- The ways a command can complete on the unit `u`. -/
inductive CompletesAs (p : Params) (u : TimerUnit) : Instr → Completion → Prop where
  /-- An abort-class fault (R222). -/
  | refused (i : Instr) (k : FaultKind) (hk : k.aborts = true) : CompletesAs p u i (abort k u)
  /-- `VALUE_AT` at `LU`, or a dropped register write (R105, R171). -/
  | untouched (i : Instr) (value : Arg) :
      CompletesAs p u i { unit := u, result := { fault := 0, n := 0, value := value }, messages := [] }
  /-- Update, body, re-arm, report (R150); `ACK_ALARM` changes `AAC` before its update (R157). -/
  | updated (i : Instr) (a : Deadline) (value : TimerUnit → Arg) (hclk : i.clockField ≤ p.clkLimit)
      (ha : a = u.armed ∨ (a = none ∧ i = .ackAlarm i.clockField)) :
      CompletesAs p u i ((bodyOf p i (TimerUnit.advance { u with armed := a } i.clockField)).finish value)
  /-- `RESET` (R180). -/
  | reset (clk : Nat) (hclk : clk ≤ p.clkLimit) :
      CompletesAs p u (.reset clk) (TimerUnit.finishForced
        { current := TimerState.atReset clk, pending := [], lastUpdate := clk, armed := none, fault := u.fault })
  /-- `RESTORE` of a well-formed record (R183). -/
  | restored (clk : Nat) (snap : Arg) (hsnap : snapshotMalformed snap = false) (hclk : clk ≤ p.clkLimit) :
      CompletesAs p u (.restore clk snap) (TimerUnit.finishForced
        { current := TimerState.ofRecord clk snap, pending := [], lastUpdate := clk, armed := none, fault := u.fault })
  /-- `REBASE` (R181). -/
  | rebased (K : Nat) (hK : K ≤ u.current.basis) :
      CompletesAs p u (.rebase K)
        { unit := u.rebased K, result := { fault := 0, n := 0, value := 0 }, messages := [] }

section Shapes
variable {p : Params} {u : TimerUnit} {i : Instr}

theorem CompletesAs.withLegalClock {clk : Nat} {run : TimerUnit → Completion}
    (h : clk ≤ p.clkLimit → CompletesAs p u i (run u)) : CompletesAs p u i (withLegalClock p clk u run) := by
  unfold Machine.withLegalClock
  split
  · exact .refused i .clkRange rfl
  · exact h (Nat.not_lt.mp ‹_›)

theorem CompletesAs.clocked {body : Progress → Progress} (hbody : bodyOf p i = body) (value : TimerUnit → Arg) :
    CompletesAs p u i (clocked p i.clockField body value u) :=
  .withLegalClock fun hclk => hbody ▸ .updated i u.armed value hclk (.inl rfl)

theorem CompletesAs.setControl {data : Byte} (hbody : bodyOf p i = Progress.writeControl p (decodeControl data)) :
    CompletesAs p u i (setControlUnit p i.clockField data u) := by
  unfold setControlUnit
  split
  · exact .refused i .badCtrl rfl
  · exact .clocked hbody noValue

theorem resetUnit_completesAs (clk : Nat) : CompletesAs p u (.reset clk) (resetUnit p clk u) := by
  unfold resetUnit
  exact .withLegalClock (.reset clk)

theorem valueAtUnit_completesAs (clk : Nat) : CompletesAs p u (.valueAt clk) (valueAtUnit p clk u) := by
  unfold valueAtUnit
  refine .withLegalClock fun _ => ?_
  split
  · exact .untouched _ _
  · exact .refused _ .stale rfl

theorem ackAlarmUnit_completesAs (clk : Nat) : CompletesAs p u (.ackAlarm clk) (ackAlarmUnit p clk u) := by
  unfold ackAlarmUnit
  exact .withLegalClock fun hclk => .updated (.ackAlarm clk) none noValue hclk (.inr ⟨rfl, rfl⟩)

theorem regReadUnit_completesAs (clk : Nat) (rs : RegSelect) :
    CompletesAs p u (.regRead clk rs) (regReadUnit p clk rs u) := by
  cases rs with
  | countLo | countHi | latchLo | latchHi | control => exact .clocked (i := .regRead clk _) rfl _
  | reserved5 | reserved6 | reserved7 => exact .refused _ .illOp rfl

theorem dropWrite_completesAs (clk : Nat) : CompletesAs p u i (dropWrite p clk u) := by
  unfold dropWrite
  exact .withLegalClock fun _ => .untouched i 0

theorem regWriteUnit_completesAs (clk : Nat) (rs : RegSelect) (data : Byte) :
    CompletesAs p u (.regWrite clk rs data) (regWriteUnit p clk rs data u) := by
  cases rs with
  | countLo | countHi => exact dropWrite_completesAs clk
  | latchLo => exact .clocked (i := .regWrite clk .latchLo data) rfl noValue
  | latchHi => exact .clocked (i := .regWrite clk .latchHi data) rfl noValue
  | control => exact .setControl (i := .regWrite clk .control data) rfl
  | reserved5 | reserved6 | reserved7 => exact .refused _ .illOp rfl

theorem rebaseUnit_completesAs (K : Nat) : CompletesAs p u (.rebase K) (rebaseUnit K u) := by
  unfold rebaseUnit
  split
  · exact .refused _ .clkRange rfl
  · exact .rebased K (Nat.not_lt.mp ‹_›)

theorem restoreUnit_completesAs (clk : Nat) (snap : Arg) :
    CompletesAs p u (.restore clk snap) (restoreUnit p clk snap u) := by
  unfold restoreUnit
  split
  · exact .refused _ .badSnap rfl
  · exact .withLegalClock (.restored clk snap (Bool.eq_false_iff.mpr ‹_›))

/-- Every command completes in one of the six ways. -/
theorem completionOf_completesAs (p : Params) (u : TimerUnit) (i : Instr) : CompletesAs p u i (completionOf i u p) := by
  cases i with
  | reset clk => exact resetUnit_completesAs clk
  | advance clk => exact .clocked (i := .advance clk) rfl noValue
  | valueAt clk => exact valueAtUnit_completesAs clk
  | setLatchLo clk data => exact .clocked (i := .setLatchLo clk data) rfl noValue
  | setLatchHi clk data => exact .clocked (i := .setLatchHi clk data) rfl noValue
  | setControl clk data => exact .setControl (i := .setControl clk data) rfl
  | ackAlarm clk => exact ackAlarmUnit_completesAs clk
  | regRead clk rs => exact regReadUnit_completesAs clk rs
  | regWrite clk rs data => exact regWriteUnit_completesAs clk rs data
  | cascadeTick clk n => exact .clocked (i := .cascadeTick clk n) rfl noValue
  | rebase k => exact rebaseUnit_completesAs k
  | snapshot clk => exact .clocked (i := .snapshot clk) rfl TimerUnit.record
  | restore clk snap => exact restoreUnit_completesAs clk snap

theorem exec_completesAs {s t : State} (h : exec i s = .next t) :
    ∃ c, CompletesAs Config.params s.unit i c ∧ t = s.complete c := by
  rw [exec_eq_complete] at h
  cases h
  exact ⟨_, completionOf_completesAs _ _ i, rfl⟩

end Shapes

-- ---------------------------------------------------------------- what the bodies leave as it was

/-- The body of a command is one of the four operations, or nothing. -/
theorem bodyOf_cases (p : Params) (i : Instr) :
    (∃ newlatch, bodyOf p i = Progress.writeLatch newlatch) ∨ (∃ c, bodyOf p i = Progress.writeControl p c) ∨
      (∃ k, bodyOf p i = Progress.siblingTicks k) ∨ bodyOf p i = id := by
  unfold bodyOf
  split
  · exact .inl ⟨_, rfl⟩
  · exact .inl ⟨_, rfl⟩
  · exact .inr (.inl ⟨_, rfl⟩)
  · exact .inr (.inr (.inl ⟨_, rfl⟩))
  · exact .inl ⟨_, rfl⟩
  · exact .inl ⟨_, rfl⟩
  · exact .inr (.inl ⟨_, rfl⟩)
  · exact .inr (.inr (.inr rfl))

/-- Everything a control write can do: raise `STKOVF`, or push (R155). -/
theorem Progress.writeControl_cases (p : Params) (c : Control) (w : Progress) :
    w.writeControl p c = w.raise .stkOvf ∨ ∃ b, w.writeControl p c = { w with unit := w.unit.push b c } := by
  unfold Progress.writeControl
  dsimp only
  split
  · exact .inl rfl
  · exact .inr ⟨_, rfl⟩

/-- Everything sibling ticks can do: be dropped, or count on a cascade timer (R158). -/
theorem Progress.siblingTicks_cases (k : Nat) (w : Progress) :
    w.siblingTicks k = w ∨
      (w.unit.current.cascadeDriven = true ∧ 1 ≤ k ∧ w.siblingTicks k =
        { w with
          unit := TimerUnit.rederive { w.unit with current := w.unit.current.cascaded k }
          n := w.n + (if w.unit.current.cascadeStops k then 1
            else cascadeUnderflows w.unit.current.count.toNat w.unit.current.period k)
          os := w.os || w.unit.current.cascadeStops k }) := by
  unfold Progress.siblingTicks
  dsimp only
  split
  · rename_i hdriven
    obtain ⟨hcas, hk⟩ := Bool.and_eq_true_iff.mp hdriven
    exact .inr ⟨hcas, of_decide_eq_true hk, rfl⟩
  · exact .inl rfl

theorem bodyOf_lastUpdate (p : Params) (i : Instr) (w : Progress) :
    (bodyOf p i w).unit.lastUpdate = w.unit.lastUpdate := by
  rcases bodyOf_cases p i with ⟨newlatch, e⟩ | ⟨c, e⟩ | ⟨k, e⟩ | e
  · rw [e]
    rfl
  · rw [e]
    rcases w.writeControl_cases p c with e | ⟨b, e⟩
    · exact congrArg (·.unit.lastUpdate) e
    · exact congrArg (·.unit.lastUpdate) e
  · rw [e]
    rcases w.siblingTicks_cases k with e | ⟨_, _, e⟩
    · exact congrArg (·.unit.lastUpdate) e
    · exact congrArg (·.unit.lastUpdate) e
  · rw [e]
    rfl

/-- A command under way has ORed the fault bits it raised into a register that held `f`, and nothing else (R222). -/
def Progress.FaultsAdded (f : FaultBits) (w : Progress) : Prop := w.unit.fault = f ||| w.raised

theorem Progress.FaultsAdded.raise {f : FaultBits} {w : Progress} (h : w.FaultsAdded f) (k : FaultKind) :
    (w.raise k).FaultsAdded f := by
  unfold FaultsAdded at h ⊢
  rw [raise_unit, TimerUnit.raise_fault, raise_raised, h, BitVec.or_assoc]

theorem Progress.FaultsAdded.bodyOf {f : FaultBits} {w : Progress} (h : w.FaultsAdded f) (p : Params) (i : Instr) :
    (bodyOf p i w).FaultsAdded f := by
  rcases bodyOf_cases p i with ⟨newlatch, e⟩ | ⟨c, e⟩ | ⟨k, e⟩ | e
  · rw [e]
    exact h
  · rw [e]
    rcases w.writeControl_cases p c with e | ⟨b, e⟩
    · rw [e]
      exact h.raise .stkOvf
    · rw [e]
      exact h
  · rw [e]
    rcases w.siblingTicks_cases k with e | ⟨_, _, e⟩
    · rwa [e]
    · rw [e]
      exact h
  · rw [e]
    exact h

/-- The commands that write the latch in force without seating the unit anew (R151, R152, R171). -/
def writesLatch : Instr → Bool
  | .setLatchLo _ _ => true
  | .setLatchHi _ _ => true
  | .regWrite _ .latchLo _ => true
  | .regWrite _ .latchHi _ => true
  | _ => false

theorem TimerState.cascaded_latch (S : TimerState) (k : Nat) : (S.cascaded k).latch = S.latch := by
  unfold cascaded
  split <;> rfl

theorem bodyOf_latch (p : Params) {i : Instr} (hi : writesLatch i = false) (w : Progress) :
    (bodyOf p i w).unit.current.latch = w.unit.current.latch := by
  have hcontrol : ∀ c, (w.writeControl p c).unit.current = w.unit.current := fun c => by
    rcases w.writeControl_cases p c with e | ⟨b, e⟩
    · exact congrArg (·.unit.current) e
    · exact congrArg (·.unit.current) e
  cases i with
  | setLatchLo | setLatchHi => exact absurd hi.symm Bool.false_ne_true
  | setControl clk data => exact congrArg TimerState.latch (hcontrol _)
  | cascadeTick clk n =>
    change (w.siblingTicks n.toNat).unit.current.latch = _
    rcases w.siblingTicks_cases n.toNat with e | ⟨_, _, e⟩
    · rw [e]
    · rw [e]
      exact TimerState.cascaded_latch _ _
  | regWrite clk rs data =>
    cases rs with
    | latchLo | latchHi => exact absurd hi.symm Bool.false_ne_true
    | control => exact congrArg TimerState.latch (hcontrol _)
    | countLo | countHi | reserved5 | reserved6 | reserved7 => rfl
  | reset | advance | valueAt | ackAlarm | regRead | rebase | snapshot | restore => rfl

/-- R120, R142: every entry has the latch of the current one, so an update leaves the latch in force. -/
theorem TimerUnit.Sound.advance_latch {p : Params} {u : TimerUnit} (h : u.Sound p) (T : Nat) :
    (u.advance T).unit.current.latch = u.current.latch := by
  have hentry : ∀ S ∈ u.stack, S.latch = u.current.latch := fun S hS => by
    rcases List.mem_cons.mp hS with rfl | hS
    · rfl
    · exact rederiveAbove_latch u.current u.pending S (h.derived.symm ▸ hS)
  have hto : ∀ T, (u.advanceTo T).unit.current.latch = u.current.latch := fun T => by
    rw [h.advanceTo_current, TimerState.proj_latch, hentry _ (governing_mem T _ _)]
  rcases u.advance_cases T with ⟨_, e⟩ | ⟨_, e⟩
  · rw [e, hto]
  · rw [e]
    exact hto _

end Sys2Proof.Machine

namespace Sys2Proof
open Machine

/-- Settles O48: every way a command completes ORs the bits of its result into `FAULT`. -/
theorem faultBitsAreSticky : Obligations.FaultBitsAreSticky := by
  intro i s t h
  obtain ⟨c, hc, rfl⟩ := exec_completesAs h
  rw [State.complete_raisedBits, State.complete_unit]
  cases hc with
  | refused i k hk => rfl
  | updated i a value hclk ha =>
    exact Progress.FaultsAdded.bodyOf (TimerUnit.advance_fault i.clockField { s.unit with armed := a }).1 _ i
  | untouched | reset | restored | rebased => exact BitVec.or_zero.symm

/-- Settles O55: an update moves `LU` to the later of its clock and `LU`, and no body moves it. -/
theorem lastUpdateNeverDecreases : Obligations.LastUpdateNeverDecreases := by
  intro i s t h hi
  obtain ⟨c, hc, rfl⟩ := exec_completesAs h
  rw [State.complete_unit]
  cases hc with
  | refused | untouched => exact le_rfl
  | updated i a value hclk ha =>
    rw [Progress.finish_unit, TimerUnit.rearm_lastUpdate, bodyOf_lastUpdate, TimerUnit.advance_lastUpdate]
    exact le_max_right _ _
  | reset | restored | rebased => exact hi.elim

/-- Settles O56: an update leaves the latch in force, and only the bodies of latch writes change it. -/
theorem latchChangesOnlyByLatchWrites : Obligations.LatchChangesOnlyByLatchWrites := by
  intro i s t hs h hi
  have hwrites : writesLatch i = false := by
    cases i with
    | regWrite clk rs data =>
      cases rs with
      | countLo | countHi | control | reserved5 | reserved6 | reserved7 => rfl
      | latchLo | latchHi => exact absurd hi (by simp [RegSelect.isCount])
    | reset | setLatchLo | setLatchHi | restore => exact hi.elim
    | advance | valueAt | setControl | ackAlarm | regRead | cascadeTick | rebase | snapshot => rfl
  obtain ⟨c, hc, rfl⟩ := exec_completesAs h
  rw [State.complete_unit]
  cases hc with
  | refused | untouched | rebased => rfl
  | updated i a value hclk ha =>
    have hsound : TimerUnit.Sound Config.params { s.unit with armed := a } := hs.sound.congr rfl rfl rfl
    rw [Progress.finish_unit, TimerUnit.rearm_current, bodyOf_latch _ hwrites, hsound.advance_latch]
  | reset | restored => exact hi.elim

/-- Settles O10: the reset entry is idle, so its target is `NEVER`. -/
theorem powerOnIsResetAtZero : Obligations.PowerOnIsResetAtZero := by
  refine ⟨rfl, rfl, rfl, rfl, rfl, rfl, fun s hs => ?_⟩
  change Host.Outcome.next (s.complete (resetUnit Config.params 0 s.unit)) = _
  rw [resetUnit, withLegalClock_legal _ _ (Nat.zero_le _), hs]
  rfl

/-- Settles O53: one idle entry with its basis at `LU` is sound, and its target is `NEVER`. -/
theorem powerOnMeetsTheInvariants : Obligations.PowerOnMeetsTheInvariants :=
  ⟨TimerUnit.inv_iff.mpr
    ⟨TimerUnit.sound_single (S := TimerState.atReset 0) rfl none 0, Nat.zero_le _, rfl⟩, ⟨rfl, rfl⟩, rfl⟩

/-- Settles O52: a step leaves the unit alone, completes a command, or raises `ILLOP`. -/
theorem stepKeepsTheUnitInvariants : Obligations.StepKeepsTheUnitInvariants := by
  intro s t hs h
  rcases step_cases h with ⟨_, rfl⟩ | ⟨_, _, i, _, _, rfl⟩ | ⟨_, _, _, _, _, rfl⟩
  · exact hs
  · exact completionOf_inv params_legal hs i
  · exact abort_inv hs .illOp

end Sys2Proof
end

section
/-! SUPPORT. Two units that agree in all but basis, running count and `load_req` of the current entry, side by side
(`10_state.md` R24, R34): every operation answers the same on both and leaves two units that agree so. -/

namespace Sys2Proof.Machine

-- ---------------------------------------------------------------- the functions on a Timer State

section TimerStates
variable {S T : TimerState}

theorem TimerState.SameFuture.refl (S : TimerState) : S.SameFuture S := ⟨rfl, rfl, rfl, rfl, rfl, fun _ => rfl⟩

theorem TimerState.SameFuture.pred (h : S.SameFuture T) : S.pred = T.pred :=
  have ⟨hpred, _⟩ := h; hpred

theorem TimerState.SameFuture.latch (h : S.SameFuture T) : S.latch = T.latch :=
  have ⟨_, hlatch, _⟩ := h; hlatch

theorem TimerState.SameFuture.running (h : S.SameFuture T) : S.running = T.running :=
  have ⟨_, _, hrunning, _⟩ := h; hrunning

theorem TimerState.SameFuture.oneShot (h : S.SameFuture T) : S.oneShot = T.oneShot :=
  have ⟨_, _, _, honeShot, _⟩ := h; honeShot

theorem TimerState.SameFuture.cascade (h : S.SameFuture T) : S.cascade = T.cascade :=
  have ⟨_, _, _, _, hcascade, _⟩ := h; hcascade

theorem TimerState.SameFuture.count (h : S.SameFuture T) (hidle : S.phiDriven = false) : S.count = T.count :=
  have ⟨_, _, _, _, _, hcount⟩ := h; hcount hidle

theorem TimerState.SameFuture.phiDriven (h : S.SameFuture T) : S.phiDriven = T.phiDriven := by
  rw [TimerState.phiDriven, h.running, h.cascade, TimerState.phiDriven]

theorem TimerState.SameFuture.cascadeDriven (h : S.SameFuture T) : S.cascadeDriven = T.cascadeDriven := by
  rw [TimerState.cascadeDriven, h.running, h.cascade, TimerState.cascadeDriven]

theorem TimerState.SameFuture.period (h : S.SameFuture T) : S.period = T.period := by
  rw [TimerState.period, h.latch, TimerState.period]

theorem TimerState.SameFuture.modeByte (h : S.SameFuture T) : S.modeByte = T.modeByte := by
  rw [TimerState.modeByte, h.cascade, h.oneShot, h.running, TimerState.modeByte]

/-- R100 reads the count of an idle timer, and `pred` and the latch of a phi-driven one. -/
theorem TimerState.SameFuture.valueAt (h : S.SameFuture T) (hS : S.Predicted) (q : Nat) :
    S.valueAt q = T.valueAt q := by
  rcases Bool.eq_false_or_eq_true S.phiDriven with hphi | hphi
  · have hphi' : T.phiDriven = true := h.phiDriven ▸ hphi
    have hP := hS.pred_eq hphi
    have hP' := h.pred.symm.trans hP
    rcases Nat.lt_or_ge (S.basis + S.count.toNat) q with hlt | hge
    · rw [valueAt_wrapped hphi hP hlt, valueAt_wrapped hphi' hP' hlt, h.latch, h.period]
    · rw [valueAt_before hphi hP hge, valueAt_before hphi' hP' hge]
  · rw [valueAt_idle hphi, valueAt_idle (h.phiDriven ▸ hphi), h.count hphi]

theorem TimerState.SameFuture.cnt (h : S.SameFuture T) (lo hi : Nat) : S.cnt lo hi = T.cnt lo hi := by
  simp only [TimerState.cnt, h.phiDriven, h.pred, h.oneShot, h.period]

theorem TimerState.SameFuture.nextInstant (h : S.SameFuture T) (lo : Nat) : S.nextInstant lo = T.nextInstant lo := by
  simp only [TimerState.nextInstant, h.phiDriven, h.pred, h.oneShot, h.period]

/-- R103: the basis a projection keeps or moves stays outside the relation; a count it writes is the same on both. -/
theorem TimerState.SameFuture.proj (h : S.SameFuture T) (hS : S.Predicted) (t : Nat) :
    (S.proj t).SameFuture (T.proj t) := by
  rcases Bool.eq_false_or_eq_true S.phiDriven with hphi | hphi
  · have hphi' : T.phiDriven = true := h.phiDriven ▸ hphi
    obtain ⟨P, hP⟩ : ∃ P, S.pred = some P := ⟨_, hS.pred_eq hphi⟩
    have hP' : T.pred = some P := h.pred ▸ hP
    rcases Nat.lt_or_ge t P with hlt | hge
    · rwa [proj_early hphi hP hlt, proj_early hphi' hP' hlt]
    · rcases Bool.eq_false_or_eq_true S.oneShot with ho | ho
      · rw [proj_stops hphi ho hP hge, proj_stops hphi' (h.oneShot ▸ ho) hP' hge]
        exact ⟨rfl, h.latch, rfl, h.oneShot, h.cascade, fun _ => rfl⟩
      · have ho' : T.oneShot = false := h.oneShot ▸ ho
        rcases Nat.eq_or_lt_of_le hge with rfl | hlt
        · rwa [proj_at_pred hphi ho hP, proj_at_pred hphi' ho' hP']
        · rw [proj_reloads hphi ho hP hlt, proj_reloads hphi' ho' hP' hlt, h.period, h.latch]
          exact ⟨rfl, rfl, h.running, h.oneShot, h.cascade, fun _ => rfl⟩
  · rw [proj_idle hphi, proj_idle (h.phiDriven ▸ hphi)]
    exact h

/-- R120: what a control change makes of the two is one and the same entry. -/
theorem TimerState.SameFuture.derive_eq (h : S.SameFuture T) (hS : S.Predicted) (b : Nat) (c : Control) :
    S.derive b c = T.derive b c := by
  have hproj := h.proj hS b
  simp only [derive, hproj.latch, hproj.valueAt (proj_predicted hS b)]

/-- R153: a running count is left alone, the count of a stopped timer becomes the new latch. -/
theorem TimerState.SameFuture.withLatch (h : S.SameFuture T) (hS : S.Predicted) (hT : T.Predicted) (L : Half) :
    (S.withLatch L).SameFuture (T.withLatch L) := by
  refine ⟨?_, rfl, h.running, h.oneShot, h.cascade, fun hidle => ?_⟩
  · rcases Bool.eq_false_or_eq_true S.phiDriven with hphi | hphi
    · rw [withLatch_pred hS hphi, withLatch_pred hT (h.phiDriven ▸ hphi), h.pred]
    · have hidle : (S.withLatch L).phiDriven = false := hphi
      have hidle' : (T.withLatch L).phiDriven = false := h.phiDriven ▸ hphi
      rw [(withLatch_predicted S L).trans (prediction_of_not_phiDriven hidle),
        (withLatch_predicted T L).trans (prediction_of_not_phiDriven hidle')]
  · rw [withLatch_count, withLatch_count, h.running, h.count hidle]

theorem TimerState.cascaded_predicted (S : TimerState) (k : Nat) : (S.cascaded k).Predicted := rfl

theorem TimerState.SameFuture.cascadeStops (h : S.SameFuture T) (hcount : S.count = T.count) (k : Nat) :
    S.cascadeStops k = T.cascadeStops k := by
  rw [TimerState.cascadeStops, h.oneShot, hcount, h.period, TimerState.cascadeStops]

/-- R158: a cascade timer is not phi-driven, so both show the count the sibling ticks work on. -/
theorem TimerState.SameFuture.cascaded (h : S.SameFuture T) (hcas : S.cascade = true) (k : Nat) :
    (S.cascaded k).SameFuture (T.cascaded k) := by
  have hcount := h.count (not_phiDriven_of_cascade hcas)
  have hpred : (S.cascaded k).pred = (T.cascaded k).pred := by
    rw [(S.cascaded_predicted k).trans (prediction_of_not_phiDriven (cascaded_not_phiDriven hcas k)),
      (T.cascaded_predicted k).trans (prediction_of_not_phiDriven (cascaded_not_phiDriven (h.cascade ▸ hcas) k))]
  have hstops := h.cascadeStops hcount k
  rcases Bool.eq_false_or_eq_true (S.cascadeStops k) with hs | hs
  · rw [cascaded_of_stops hs, cascaded_of_stops (hstops ▸ hs)] at hpred ⊢
    exact ⟨hpred, h.latch, rfl, h.oneShot, h.cascade, fun _ => rfl⟩
  · rw [cascaded_of_counts hs, cascaded_of_counts (hstops ▸ hs)] at hpred ⊢
    refine ⟨hpred, h.latch, h.running, h.oneShot, h.cascade, fun _ => ?_⟩
    rw [mkpred_count, mkpred_count, h.latch, hcount]

-- ---------------------------------------------------------------- the functions on a stack

theorem TimerState.SameFuture.newest (h : S.SameFuture T) (l : List TimerState) :
    (newest S l).SameFuture (newest T l) := by
  cases l with
  | nil => exact h
  | cons E l => exact .refl _

theorem TimerState.SameFuture.newest_derive (h : S.SameFuture T) (hS : S.Predicted) (l : List TimerState) (b : Nat)
    (c : Control) : (Machine.newest S l).derive b c = (Machine.newest T l).derive b c := by
  cases l with
  | nil => exact h.derive_eq hS b c
  | cons E l => rfl

theorem TimerState.SameFuture.rederiveAbove_eq (h : S.SameFuture T) (hS : S.Predicted) (l : List TimerState) :
    rederiveAbove S l = rederiveAbove T l := by
  cases l with
  | nil => rfl
  | cons E l => rw [rederiveAbove_cons, rederiveAbove_cons, h.derive_eq hS]

theorem TimerState.SameFuture.targetFrom_eq (h : S.SameFuture T) (lo : Nat) (l : List TimerState) :
    targetFrom lo S l = targetFrom lo T l := by
  cases l with
  | nil => exact h.nextInstant lo
  | cons E l => rw [targetFrom_cons, targetFrom_cons, h.nextInstant]

/-- Two collapses that differ at most in what `TimerState.SameFuture` allows of their current entries. -/
structure Collapsed.SameFuture (r r' : Collapsed) : Prop where
  current : r.current.SameFuture r'.current
  pending : r.pending = r'.pending
  lo : r.lo = r'.lo
  n : r.n = r'.n
  os : r.os = r'.os

/-- R142: the entry that is dropped first is counted the same, and above it the stacks are equal. -/
theorem TimerState.SameFuture.collapse (h : S.SameFuture T) (clk lo : Nat) (l : List TimerState) :
    (collapse clk lo S l).SameFuture (collapse clk lo T l) := by
  cases l with
  | nil => exact ⟨h, rfl, rfl, rfl, rfl⟩
  | cons E l =>
    rcases Nat.lt_or_ge clk E.basis with hE | hE
    · rw [collapse_stops lo S l hE, collapse_stops lo T l hE]
      exact ⟨h, rfl, rfl, rfl, rfl⟩
    · rw [collapse_folds lo S l hE, collapse_folds lo T l hE, h.cnt, h.oneShot]
      exact ⟨.refl _, rfl, rfl, rfl, rfl⟩

end TimerStates

-- ---------------------------------------------------------------- the operations on a unit

section Units
variable {p : Params} {u v : TimerUnit}

theorem TimerUnit.SameFuture.current (h : u.SameFuture v) : u.current.SameFuture v.current :=
  have ⟨hcurrent, _⟩ := h; hcurrent

theorem TimerUnit.SameFuture.pending (h : u.SameFuture v) : u.pending = v.pending :=
  have ⟨_, hpending, _⟩ := h; hpending

theorem TimerUnit.SameFuture.lastUpdate (h : u.SameFuture v) : u.lastUpdate = v.lastUpdate :=
  have ⟨_, _, hlastUpdate, _⟩ := h; hlastUpdate

theorem TimerUnit.SameFuture.armed (h : u.SameFuture v) : u.armed = v.armed :=
  have ⟨_, _, _, harmed⟩ := h; harmed

theorem TimerUnit.SameFuture.target (h : u.SameFuture v) : u.target = v.target := by
  rw [TimerUnit.target, h.lastUpdate, h.pending, h.current.targetFrom_eq, TimerUnit.target]

theorem TimerUnit.SameFuture.top (h : u.SameFuture v) : u.top.SameFuture v.top := by
  rw [TimerUnit.top, h.pending]
  exact h.current.newest _

theorem TimerUnit.SameFuture.rearm (h : u.SameFuture v) : u.rearm.SameFuture v.rearm :=
  ⟨h.current, h.pending, h.lastUpdate, h.target⟩

theorem TimerUnit.SameFuture.rearmMessages (h : u.SameFuture v) : u.rearmMessages = v.rearmMessages := by
  rw [TimerUnit.rearmMessages, h.target, h.armed, TimerUnit.rearmMessages]

/-- R122: other current entries that agree so, and the pending entries derived again. -/
theorem TimerUnit.SameFuture.replaceCurrent (h : u.SameFuture v) {S T : TimerState} (hST : S.SameFuture T)
    (hS : S.Predicted) :
    (TimerUnit.rederive { u with current := S }).SameFuture (TimerUnit.rederive { v with current := T }) := by
  refine ⟨hST, ?_, h.lastUpdate, h.armed⟩
  rw [rederive_pending, rederive_pending, h.pending]
  exact hST.rederiveAbove_eq hS _

theorem TimerUnit.SameFuture.push (h : u.SameFuture v) (hu : u.current.Predicted) (b : Nat) (c : Control) :
    (u.push b c).SameFuture (v.push b c) := by
  refine ⟨h.current, ?_, h.lastUpdate, h.armed⟩
  simp only [TimerUnit.push, h.pending, h.current.newest_derive hu]

theorem TimerUnit.SameFuture.pushOverflows (h : u.SameFuture v) (b : Nat) : u.pushOverflows b = v.pushOverflows b := by
  rw [TimerUnit.pushOverflows, h.pending, TimerUnit.pushOverflows]

/-- Two commands under way on units that agree so and cache their predictions (R22), with the same counts and faults up
to now. -/
structure Progress.SameFuture (w x : Progress) : Prop where
  unit : w.unit.SameFuture x.unit
  predicted_left : w.unit.current.Predicted
  predicted_right : x.unit.current.Predicted
  n : w.n = x.n
  os : w.os = x.os
  raised : w.raised = x.raised

theorem Progress.SameFuture.raise {w x : Progress} (h : w.SameFuture x) (k : FaultKind) :
    (w.raise k).SameFuture (x.raise k) :=
  ⟨h.unit, h.predicted_left, h.predicted_right, h.n, h.os, congrArg (· ||| k.bit) h.raised⟩

theorem TimerUnit.Sound.advanceTo_current_predicted (h : u.Sound p) (clk : Nat) :
    (u.advanceTo clk).unit.current.Predicted := by
  rw [h.advanceTo_current]
  exact TimerState.proj_predicted (h.governing_predicted clk) clk

theorem TimerUnit.SameFuture.advanceTo (h : u.SameFuture v) (hu : u.Sound p) (hv : v.Sound p) (clk : Nat) :
    (u.advanceTo clk).SameFuture (v.advanceTo clk) := by
  have hcollapse := h.current.collapse clk u.lastUpdate u.pending
  have hpredicted : (collapse clk u.lastUpdate u.current u.pending).current.Predicted :=
    collapse_current clk u.lastUpdate u.current u.pending ▸ hu.governing_predicted clk
  have hu' := hu.advanceTo_current_predicted clk
  have hv' := hv.advanceTo_current_predicted clk
  unfold TimerUnit.advanceTo at hu' hv' ⊢
  rw [← h.lastUpdate, ← h.pending] at hv' ⊢
  refine ⟨⟨hcollapse.current.proj hpredicted clk, hcollapse.pending, rfl, h.armed⟩, hu', hv', ?_, ?_, rfl⟩
  · dsimp only
    rw [hcollapse.n, hcollapse.lo, hcollapse.current.cnt]
  · dsimp only
    rw [hcollapse.os, hcollapse.lo, hcollapse.current.cnt, hcollapse.current.oneShot]

theorem TimerUnit.SameFuture.advance (h : u.SameFuture v) (hu : u.Sound p) (hv : v.Sound p) (clk : Nat) :
    (u.advance clk).SameFuture (v.advance clk) := by
  unfold TimerUnit.advance
  rw [← h.lastUpdate]
  split
  · exact (h.advanceTo hu hv _).raise .regress
  · exact h.advanceTo hu hv clk

theorem TimerUnit.SameFuture.registerByte (h : u.SameFuture v) (hu : u.current.Predicted) (rs : RegSelect) :
    u.registerByte rs = v.registerByte rs := by
  cases rs with
  | countLo => exact congrArg (some <| lowByte ·) (by rw [h.current.valueAt hu, h.lastUpdate])
  | countHi => exact congrArg (some <| highByte ·) (by rw [h.current.valueAt hu, h.lastUpdate])
  | latchLo => exact congrArg (some <| lowByte ·) h.current.latch
  | latchHi => exact congrArg (some <| highByte ·) h.current.latch
  | control => exact congrArg some h.top.modeByte
  | reserved5 | reserved6 | reserved7 => rfl

theorem TimerUnit.SameFuture.record (h : u.SameFuture v) (hu : u.current.Predicted) : u.record = v.record := by
  rw [TimerUnit.record, h.current.valueAt hu, h.lastUpdate, packSnapshot, h.current.modeByte, h.current.latch]
  rfl

end Units

-- ---------------------------------------------------------------- the bodies of the commands

/-- The body of a clocked command, run on two units that agree so, leaves two that do; it counts and raises the same on
both. -/
def Progress.BodyKeepsSameFuture (body : Progress → Progress) : Prop :=
  ∀ w x : Progress, w.SameFuture x → (body w).SameFuture (body x)

theorem Progress.id_keepsSameFuture : Progress.BodyKeepsSameFuture id := fun _ _ h => h

theorem Progress.writeLatch_keepsSameFuture (newlatch : Half → Half) :
    Progress.BodyKeepsSameFuture (Progress.writeLatch newlatch) := fun w x h => by
  refine ⟨h.unit.replaceCurrent ?_ (TimerState.withLatch_predicted _ _), TimerState.withLatch_predicted _ _,
    TimerState.withLatch_predicted _ _, h.n, h.os, h.raised⟩
  rw [h.unit.current.latch]
  exact h.unit.current.withLatch h.predicted_left h.predicted_right _

theorem Progress.writeControl_keepsSameFuture (p : Params) (c : Control) :
    Progress.BodyKeepsSameFuture (Progress.writeControl p c) := fun w x h => by
  unfold Progress.writeControl
  dsimp only
  rw [h.unit.lastUpdate, h.unit.top.running, h.unit.pushOverflows]
  split
  · exact h.raise .stkOvf
  · exact ⟨h.unit.push h.predicted_left _ c, h.predicted_left, h.predicted_right, h.n, h.os, h.raised⟩

theorem Progress.siblingTicks_keepsSameFuture (k : Nat) :
    Progress.BodyKeepsSameFuture (Progress.siblingTicks k) := fun w x h => by
  unfold Progress.siblingTicks
  dsimp only
  rw [h.unit.current.cascadeDriven]
  split
  · rename_i hdriven
    have hcas : w.unit.current.cascade = true :=
      h.unit.current.cascade ▸ ((TimerState.cascadeDriven_iff _).mp (Bool.and_eq_true_iff.mp hdriven).1).2
    have hcount := h.unit.current.count (TimerState.not_phiDriven_of_cascade hcas)
    have hstops := h.unit.current.cascadeStops hcount k
    refine ⟨h.unit.replaceCurrent (h.unit.current.cascaded hcas k) (TimerState.cascaded_predicted _ k),
      TimerState.cascaded_predicted _ k, TimerState.cascaded_predicted _ k, ?_, ?_, h.raised⟩
    · dsimp only
      rw [h.n, hstops, hcount, h.unit.current.period]
    · dsimp only
      rw [h.os, hstops]
  · exact h

-- ---------------------------------------------------------------- the shapes of a command

/-- Two completions with the same result and messages, on units that agree so. -/
structure Completion.SameFuture (c d : Completion) : Prop where
  unit : c.unit.SameFuture d.unit
  result : c.result = d.result
  messages : c.messages = d.messages

section Shapes
variable {p : Params} {u v : TimerUnit}

theorem TimerUnit.SameFuture.abort (h : u.SameFuture v) (k : FaultKind) : (abort k u).SameFuture (abort k v) :=
  ⟨h, rfl, rfl⟩

theorem TimerUnit.SameFuture.withLegalClock (h : u.SameFuture v) {run : TimerUnit → Completion}
    (hrun : (run u).SameFuture (run v)) (clk : Nat) :
    (withLegalClock p clk u run).SameFuture (withLegalClock p clk v run) := by
  unfold Machine.withLegalClock
  split
  · exact h.abort .clkRange
  · exact hrun

/-- The data a command returns is the same on units that agree so. -/
def ValueKeepsSameFuture (value : TimerUnit → Arg) : Prop :=
  ∀ u v : TimerUnit, u.current.Predicted → u.SameFuture v → value u = value v

theorem noValue_keepsSameFuture : ValueKeepsSameFuture noValue := fun _ _ _ _ => rfl

theorem Progress.SameFuture.finish {w x : Progress} (h : w.SameFuture x) {value : TimerUnit → Arg}
    (hvalue : ValueKeepsSameFuture value) : (w.finish value).SameFuture (x.finish value) := by
  refine ⟨h.unit.rearm, ?_, ?_⟩
  · rw [Progress.finish, h.raised, h.n, hvalue _ _ h.predicted_left h.unit]
    rfl
  · rw [finish_messages, finish_messages, h.n, h.os, h.unit.rearmMessages]

theorem TimerUnit.SameFuture.update_body_finish (h : u.SameFuture v) (hu : u.Sound p) (hv : v.Sound p)
    {body : Progress → Progress} (hbody : Progress.BodyKeepsSameFuture body) {value : TimerUnit → Arg}
    (hvalue : ValueKeepsSameFuture value) (clk : Nat) :
    ((body (u.advance clk)).finish value).SameFuture ((body (v.advance clk)).finish value) :=
  (hbody _ _ (h.advance hu hv clk)).finish hvalue

theorem TimerUnit.SameFuture.clocked (h : u.SameFuture v) (hu : u.Sound p) (hv : v.Sound p)
    {body : Progress → Progress} (hbody : Progress.BodyKeepsSameFuture body) {value : TimerUnit → Arg}
    (hvalue : ValueKeepsSameFuture value) (clk : Nat) :
    (clocked p clk body value u).SameFuture (clocked p clk body value v) :=
  h.withLegalClock (h.update_body_finish hu hv hbody hvalue clk) clk

/-- R180, R183: seating the unit anew keeps `FAULT` alone, which the relation does not look at. -/
theorem finishForced_sameFuture (S : TimerState) (clk : Nat) (f g : FaultBits) :
    (TimerUnit.finishForced { current := S, pending := [], lastUpdate := clk, armed := none, fault := f }).SameFuture
      (TimerUnit.finishForced { current := S, pending := [], lastUpdate := clk, armed := none, fault := g }) :=
  ⟨⟨.refl S, rfl, rfl, rfl⟩, rfl, rfl⟩

end Shapes

-- ---------------------------------------------------------------- the commands

section Commands
variable {p : Params} {u v : TimerUnit} (h : u.SameFuture v) (hu : u.Sound p) (hv : v.Sound p) (clk : Nat)
include h

theorem TimerUnit.SameFuture.resetUnit : (resetUnit p clk u).SameFuture (resetUnit p clk v) := by
  unfold Machine.resetUnit
  exact h.withLegalClock (finishForced_sameFuture _ clk _ _) clk

theorem TimerUnit.SameFuture.dropWrite : (dropWrite p clk u).SameFuture (dropWrite p clk v) := by
  unfold Machine.dropWrite
  exact h.withLegalClock ⟨h, rfl, rfl⟩ clk

theorem TimerUnit.SameFuture.valueAtUnit (hu : u.current.Predicted) :
    (valueAtUnit p clk u).SameFuture (valueAtUnit p clk v) := by
  unfold Machine.valueAtUnit
  refine h.withLegalClock ?_ clk
  rw [h.lastUpdate, h.current.valueAt hu]
  split
  · exact ⟨h, rfl, rfl⟩
  · exact h.abort .stale

theorem TimerUnit.SameFuture.restoreUnit (snap : Arg) :
    (restoreUnit p clk snap u).SameFuture (restoreUnit p clk snap v) := by
  unfold Machine.restoreUnit
  split
  · exact h.abort .badSnap
  · exact h.withLegalClock (finishForced_sameFuture _ clk _ _) clk

include hu hv

theorem TimerUnit.SameFuture.setControlUnit (data : Byte) :
    (setControlUnit p clk data u).SameFuture (setControlUnit p clk data v) := by
  unfold Machine.setControlUnit
  split
  · exact h.abort .badCtrl
  · exact h.clocked hu hv (Progress.writeControl_keepsSameFuture p _) noValue_keepsSameFuture clk

theorem TimerUnit.SameFuture.ackAlarmUnit : (ackAlarmUnit p clk u).SameFuture (ackAlarmUnit p clk v) := by
  have hunarmed : TimerUnit.SameFuture { u with armed := none } { v with armed := none } :=
    ⟨h.current, h.pending, h.lastUpdate, rfl⟩
  exact h.withLegalClock (hunarmed.update_body_finish (hu.congr rfl rfl rfl) (hv.congr rfl rfl rfl)
    Progress.id_keepsSameFuture noValue_keepsSameFuture clk) clk

theorem TimerUnit.SameFuture.regReadUnit (rs : RegSelect) :
    (regReadUnit p clk rs u).SameFuture (regReadUnit p clk rs v) := by
  have hread : ∀ r, (readRegister p clk r u).SameFuture (readRegister p clk r v) := fun r =>
    h.clocked hu hv Progress.id_keepsSameFuture (fun _ _ hp h' => by rw [h'.registerByte hp]) clk
  cases rs with
  | countLo | countHi | latchLo | latchHi | control => exact hread _
  | reserved5 | reserved6 | reserved7 => exact h.abort .illOp

theorem TimerUnit.SameFuture.regWriteUnit (rs : RegSelect) (data : Byte) :
    (regWriteUnit p clk rs data u).SameFuture (regWriteUnit p clk rs data v) := by
  cases rs with
  | countLo | countHi => exact h.dropWrite clk
  | latchLo | latchHi => exact h.clocked hu hv (Progress.writeLatch_keepsSameFuture _) noValue_keepsSameFuture clk
  | control => exact h.setControlUnit hu hv clk data
  | reserved5 | reserved6 | reserved7 => exact h.abort .illOp

/-- R34: no command but `REBASE` tells the two units apart. -/
theorem TimerUnit.SameFuture.completionOf {i : Instr} (hi : i.isRebase = false) :
    (completionOf i u p).SameFuture (completionOf i v p) := by
  cases i with
  | reset clk => exact h.resetUnit clk
  | advance clk => exact h.clocked hu hv Progress.id_keepsSameFuture noValue_keepsSameFuture clk
  | valueAt clk => exact h.valueAtUnit clk hu.current_predicted
  | setLatchLo clk data => exact h.clocked hu hv (Progress.writeLatch_keepsSameFuture _) noValue_keepsSameFuture clk
  | setLatchHi clk data => exact h.clocked hu hv (Progress.writeLatch_keepsSameFuture _) noValue_keepsSameFuture clk
  | setControl clk data => exact h.setControlUnit hu hv clk data
  | ackAlarm clk => exact h.ackAlarmUnit hu hv clk
  | regRead clk rs => exact h.regReadUnit hu hv clk rs
  | regWrite clk rs data => exact h.regWriteUnit hu hv clk rs data
  | cascadeTick clk n =>
    exact h.clocked hu hv (Progress.siblingTicks_keepsSameFuture _) noValue_keepsSameFuture clk
  | rebase k => exact absurd hi.symm Bool.false_ne_true
  | snapshot clk => exact h.clocked hu hv Progress.id_keepsSameFuture (fun _ _ hp h' => h'.record hp) clk
  | restore clk snap => exact h.restoreUnit clk snap

end Commands

end Sys2Proof.Machine

namespace Sys2Proof
open Machine

/-- Settles O44: update, body and report of every command keep the relation and answer the same on both sides. -/
theorem sameFutureIsUnobservable : Obligations.SameFutureIsUnobservable := by
  intro i s1 s2 t1 t2 h1 h2 h hi e1 e2
  rw [exec_eq_complete] at e1 e2
  cases e1
  cases e2
  have hsame := h.completionOf h1.sound h2.sound hi
  exact ⟨congrArg some hsame.result, hsame.messages, hsame.unit⟩

end Sys2Proof
end

section
/-! SUPPORT. What a decoded word says of its command: the `CLK` field becomes the clock operand unchanged
(`30_encoding.md` R80, R84), so a decoded command fits the width it was read at; and the step that takes it. -/

namespace Sys2Proof

/-- R83: every row of the command map takes the `CLK` field as it stands. -/
theorem clockField_of_decodeFields {op : Byte} {clk : Nat} {arg : Arg} {i : Instr}
    (h : decodeFields op clk arg = .ok i) : i.clockField = clk := by
  unfold decodeFields at h
  split at h <;> cases h <;> rfl

theorem fits_of_decodeWord {p : Params} {w : CommandWord p.clkw} {i : Instr} (h : decodeWord w = .ok i) :
    i.fits p = true :=
  decide_eq_true (clockField_of_decodeFields h ▸ clkField_lt w)

theorem wellFormed_of_decode {w : Word} {i : Instr} (h : decode w = .ok i) : i.wellFormed = true :=
  fits_of_decodeWord (p := Config.params) h

/-- R67: the word is taken off the stream before its command runs. -/
theorem Machine.step_of_decode {s : Machine.State} {w : Word} {rest : List Word} {i : Instr}
    (hc : s.commands = w :: rest) (hd : decode w = .ok i) :
    Machine.step s = Machine.exec i { s with commands := rest } := by
  simp only [Machine.step, Machine.State.nextCommand, hc, hd]

/-- Settles O6: a decoded clock is a field of `CLKW` bits, and the step is the one of a word that decodes. -/
theorem stepRunsTheDecodedCommand : Obligations.StepRunsTheDecodedCommand :=
  fun _ _ _ _ hc hd => ⟨wellFormed_of_decode hd, Machine.step_of_decode hc hd⟩

end Sys2Proof
end

section
/-! SUPPORT. Decoder and encoder (`30_encoding.md` R80 to R83, R86, R89): what the field functions read of a word and of
an argument, and that the command map takes each command's `OP`, `CLK` and `ARG` back to it and looks at no bit of `ARG`
but those the format names. -/

namespace Sys2Proof

section Fields
variable {clkw : Nat} (w : CommandWord clkw)

/-- R80: a word is its three fields and nothing else. -/
theorem append_wordFields : opField w ++ BitVec.ofNat clkw (clkField w) ++ argField w = w := by
  have hclk : BitVec.ofNat clkw (clkField w) = w.extractLsb' 40 clkw :=
    (BitVec.ofNat_toNat _ _).trans (BitVec.setWidth_eq _)
  have hhigh : opField w ++ w.extractLsb' 40 clkw = w.extractLsb' 40 (8 + clkw) :=
    BitVec.extractLsb'_append_extractLsb'_eq_extractLsb' (Nat.add_comm _ _)
  rw [hclk, hhigh]
  exact BitVec.extractLsb'_append_extractLsb'

theorem opField_toNat_eq_div : (opField w).toNat = w.toNat / 2 ^ (clkw + 40) := by
  have hw : w.toNat / 2 ^ (clkw + 40) < 2 ^ 8 := by
    rw [Nat.div_lt_iff_lt_mul (Nat.two_pow_pos _), ← Nat.pow_add, ← Nat.add_assoc]
    exact w.isLt
  rw [opField, BitVec.extractLsb'_toNat, Nat.shiftRight_eq_div_pow, Nat.mod_eq_of_lt hw]

theorem clkField_eq_div_mod : clkField w = w.toNat / 2 ^ 40 % 2 ^ clkw := by
  rw [clkField, BitVec.extractLsb'_toNat, Nat.shiftRight_eq_div_pow]

end Fields

section Arguments
variable (a : Arg) (d : Byte) (n : Half) (b : BitVec 3)

@[simp] theorem data8Field_setWidth : data8Field (d.setWidth 40) = d :=
  (BitVec.extractLsb'_setWidth_of_le (by decide)).trans BitVec.extractLsb'_eq_self

@[simp] theorem n16Field_setWidth : n16Field (n.setWidth 40) = n :=
  (BitVec.extractLsb'_setWidth_of_le (by decide)).trans BitVec.extractLsb'_eq_self

@[simp] theorem data8Field_append (x : BitVec 32) : data8Field (x ++ d) = d := BitVec.extractLsb'_append_eq_right

@[simp] theorem rsField_append : rsField ((0#29 ++ b) ++ d) = b :=
  (BitVec.extractLsb'_append_eq_of_le (le_refl 8)).trans BitVec.extractLsb'_append_eq_right

theorem data8Field_ofNat (k : Nat) : data8Field (BitVec.ofNat 40 k) = BitVec.ofNat 8 k := by
  apply BitVec.eq_of_toNat_eq
  simp [data8Field]

theorem n16Field_ofNat (k : Nat) : n16Field (BitVec.ofNat 40 k) = BitVec.ofNat 16 k := by
  apply BitVec.eq_of_toNat_eq
  simp [n16Field]

theorem rsField_ofNat_toNat (k : Nat) : (rsField (BitVec.ofNat 40 k)).toNat = k / 2 ^ 8 % 2 ^ 3 := by
  rw [rsField, BitVec.extractLsb'_toNat, BitVec.toNat_ofNat, Nat.shiftRight_eq_div_pow]
  omega

/-- R86: the registers in the order of their selects. -/
theorem selects_getElem?_toNat :
    [RegSelect.countLo, .countHi, .latchLo, .latchHi, .control, .reserved5, .reserved6, .reserved7][b.toNat]? =
      some (decodeSelect b) := by
  revert b
  decide

/-- The low bits of a word kept in their place are those under a mask of ones. -/
theorem setWidth_extractLsb'_zero {v : Nat} (x : BitVec v) (len : Nat) :
    (x.extractLsb' 0 len).setWidth v = x &&& (BitVec.allOnes len).setWidth v := by
  ext i hi
  simp [BitVec.getLsbD_eq_getElem hi, Bool.and_comm]

theorem data8Field_eq_and_mask : (data8Field a).setWidth 40 = a &&& 0xFF := setWidth_extractLsb'_zero a 8

theorem n16Field_eq_and_mask : (n16Field a).setWidth 40 = a &&& 0xFFFF := setWidth_extractLsb'_zero a 16

/-- R81: `ARG` is the bits above `RS`, `RS` and `DATA8`. -/
theorem append_argFields : a.extractLsb' 11 29 ++ rsField a ++ data8Field a = a := by
  have hhigh : a.extractLsb' 11 29 ++ rsField a = a.extractLsb' 8 32 :=
    BitVec.extractLsb'_append_extractLsb'_eq_extractLsb' rfl
  rw [hhigh]
  exact BitVec.extractLsb'_append_extractLsb' (w := 32)

theorem rsField_data8Field_and (m : Byte) :
    0#29 ++ rsField a ++ (data8Field a &&& m) = a &&& (0#29 ++ BitVec.allOnes 3 ++ m) := by
  conv_rhs => rw [← append_argFields a]
  rw [BitVec.and_append, BitVec.and_append, BitVec.and_zero, BitVec.and_allOnes]

theorem rsField_eq_and_mask : 0#29 ++ rsField a ++ 0#8 = a &&& 0x700 :=
  BitVec.and_zero (x := data8Field a) ▸ rsField_data8Field_and a 0

theorem rsField_data8Field_eq_and_mask : 0#29 ++ rsField a ++ data8Field a = a &&& 0x7FF := by
  have h := rsField_data8Field_and a (BitVec.allOnes 8)
  rwa [BitVec.and_allOnes] at h

end Arguments

section CommandMap
variable {op : Byte} {clk : Nat} {arg : Arg} {i : Instr}

/-- R83, R84: the command map reads every operand back from where the format places it. -/
theorem decodeFields_of_command (i : Instr) : decodeFields i.opcode i.clockField i.argBits = .ok i := by
  cases i with
  | reset | advance | valueAt | ackAlarm | rebase | snapshot | restore => rfl
  | setLatchLo | setLatchHi | setControl | regRead | regWrite | cascadeTick =>
    simp [decodeFields, Instr.opcode, Instr.clockField, Instr.argBits]

/-- R83: a command stands in the row of its `OP`. -/
theorem opcode_of_decodeFields (h : decodeFields op clk arg = .ok i) : i.opcode = op := by
  unfold decodeFields at h
  split at h <;> cases h <;> exact BitVec.eq_of_toNat_eq (Eq.symm ‹_›)

/-- R81, R82: a decoded command's operands are the bits of `ARG` its format names. -/
theorem argBits_of_decodeFields (h : decodeFields op clk arg = .ok i) : i.argBits = arg &&& i.argMask := by
  unfold decodeFields at h
  split at h <;> cases h
  case h_1 | h_2 | h_3 | h_7 | h_11 | h_12 => exact BitVec.and_zero.symm
  case h_4 | h_5 | h_6 => exact data8Field_eq_and_mask arg
  case h_8 => rw [Instr.argBits, encodeSelect_decodeSelect, rsField_eq_and_mask, Instr.argMask]
  case h_9 => rw [Instr.argBits, encodeSelect_decodeSelect, rsField_data8Field_eq_and_mask, Instr.argMask]
  case h_10 => exact n16Field_eq_and_mask arg
  case h_13 => exact BitVec.and_allOnes.symm

/-- R83, R89(a): the map has a row for each `OP` below 0x0D and no other. -/
theorem decodeFields_eq_error_iff : decodeFields op clk arg = .error (.reservedOp op) ↔ 0x0D ≤ op.toNat := by
  unfold decodeFields
  split
  case h_14 => exact iff_of_true rfl (by grind)
  all_goals exact iff_of_false nofun (by omega)

end CommandMap

theorem decodeWord_encodeWord (clkw : Nat) (i : Instr) (h : i.clockField < 2 ^ clkw) :
    decodeWord (encodeWord clkw i) = .ok i := by
  rw [decodeWord, opField_encodeWord, clkField_encodeWord clkw i h, argField_encodeWord, decodeFields_of_command]

theorem encodeWord_of_decodeWord {clkw : Nat} {w : CommandWord clkw} {i : Instr} (h : decodeWord w = .ok i) :
    encodeWord clkw i = w &&& (BitVec.allOnes (8 + clkw) ++ i.argMask) := by
  calc encodeWord clkw i
    _ = opField w ++ BitVec.ofNat clkw (clkField w) ++ (argField w &&& i.argMask) := by
      rw [encodeWord, opcode_of_decodeFields h, clockField_of_decodeFields h, argBits_of_decodeFields h]
    _ = (opField w ++ BitVec.ofNat clkw (clkField w) ++ argField w) &&&
          (BitVec.allOnes (8 + clkw) ++ i.argMask) := by
      rw [BitVec.and_append, BitVec.and_allOnes]
    _ = w &&& (BitVec.allOnes (8 + clkw) ++ i.argMask) := by rw [append_wordFields]

/-- R80: the word as a number, cut at the bounds of its fields. -/
theorem decode_eq_decodeFields_of_toNat (w : Word) :
    decode w =
      decodeFields (BitVec.ofNat 8 (w.toNat / 2 ^ 72)) (w.toNat / 2 ^ 40 % 2 ^ 32) (BitVec.ofNat 40 w.toNat) := by
  have hop : BitVec.ofNat 8 (w.toNat / 2 ^ 72) = opField (clkw := 32) w :=
    opField_toNat_eq_div (clkw := 32) w ▸ (BitVec.ofNat_toNat _ _).trans (BitVec.setWidth_eq _)
  rw [hop, ← clkField_eq_div_mod (clkw := 32) w]
  rfl

/-- R89(a): the word is taken off the stream and `ILLOP` is all it does. -/
theorem Machine.step_of_reservedOp {s : Machine.State} {w : Word} {rest : List Word} {op : Byte}
    (hc : s.commands = w :: rest) (hd : decode w = .error (.reservedOp op)) :
    Machine.step s = .next (Machine.State.illegalOp { s with commands := rest }) := by
  simp only [Machine.step, Machine.State.nextCommand, hc, hd]

/-- Settles O1: the fields of an encoded command are its own, and the command map reads its operands from them. -/
theorem encodedCommandDecodesToItself : Obligations.EncodedCommandDecodesToItself :=
  fun i h => decodeWord_encodeWord 32 i (of_decide_eq_true h)

/-- Settles O2: the mask keeps `OP` and `CLK` and leaves of `ARG` what the command holds. -/
theorem decodingReadsOnlyNamedBits : Obligations.DecodingReadsOnlyNamedBits :=
  fun _ _ h => ⟨wellFormed_of_decode h, encodeWord_of_decodeWord h⟩

/-- Settles O3: `OP` alone chooses the row of the command map. -/
theorem reservedOpcodesAreExactlyTheRejected : Obligations.ReservedOpcodesAreExactlyTheRejected :=
  fun _ => decodeFields_eq_error_iff

/-- Settles O4: with each printed place named by its field, every row is one of the command map. -/
theorem everyWordIsTheCommandOfTheTable : Obligations.EveryWordIsTheCommandOfTheTable := by
  rintro w op clk hop rfl
  have row (k : Nat) (hk : op = k) :
      decode w = decodeFields (BitVec.ofNat 8 k) (w.toNat / 2 ^ 40 % 2 ^ 32) (BitVec.ofNat 40 w.toNat) := by
    rw [decode_eq_decodeFields_of_toNat, hop, hk]
  rw [← rsField_ofNat_toNat, ← data8Field_ofNat, ← n16Field_ofNat]
  exact ⟨_, selects_getElem?_toNat _, row 0x00, row 0x01, row 0x02, row 0x03, row 0x04, row 0x05, row 0x06, row 0x07,
    row 0x08, row 0x09, row 0x0A, row 0x0B, row 0x0C⟩

/-- Settles O5: fixed words, read by running the decoder. -/
theorem printedWordsDecode : Obligations.PrintedWordsDecode := by
  unfold Obligations.PrintedWordsDecode
  decide

/-- Settles O7: a word with a reserved `OP` is refused by the decoder, and the step raises `ILLOP` alone. -/
theorem reservedOpcodeRaisesIllop : Obligations.ReservedOpcodeRaisesIllop :=
  fun _ _ _ hc hop => Machine.step_of_reservedOp hc (decodeFields_eq_error_iff.mpr hop)

end Sys2Proof
end

section
/-! SUPPORT. The read-back functions over whole intervals (`40_timer_state_readback.md` R100 to R105): the count of
instants as a cardinality, what a projection shows and reaches from its clock on, and `VALUE_AT`. -/

namespace Sys2Proof.Machine

-- ---------------------------------------------------------------- the number of instants

/-- R101: up to its prediction a phi-driven timer has one instant, the prediction. -/
theorem TimerState.isInstant_iff_eq_pred {S : TimerState} {P u : Nat} (h : S.phiDriven = true) (hP : S.pred = some P)
    (hu : u ≤ P) : S.isInstant u = true ↔ P = u := by
  rcases Bool.eq_false_or_eq_true S.oneShot with ho | ho
  · exact (isInstant_oneShot h ho hP u).trans eq_comm
  · rw [isInstant_continuous h ho hP, Nat.sub_eq_zero_of_le hu, Nat.zero_mod]
    omega

/-- R102: `cnt` and the cardinality grow alike as the interval grows by one clock. -/
theorem TimerState.cnt_eq_card (S : TimerState) {lo hi : Nat} (h : lo ≤ hi) :
    S.cnt lo hi = ((Finset.Ioc lo hi).filter fun u => S.isInstant u = true).card := by
  induction hi, h using Nat.le_induction with
  | base => simp [cnt_self]
  | succ hi h ih =>
    have hnew : hi + 1 ∉ (Finset.Ioc lo hi).filter fun u => S.isInstant u = true := by simp
    rw [cnt_succ S h, ih, ← Finset.insert_Ioc_right_eq_Ioc_add_one h, Finset.filter_insert]
    split
    · rw [Finset.card_insert_of_notMem hnew]
    · rfl

-- ---------------------------------------------------------------- a projection from its clock on

section Projection
variable {S : TimerState} {t : Nat}

/-- R103: no projection stops a continuous timer. -/
theorem TimerState.proj_phiDriven_of_continuous (hS : S.Predicted) (ho : S.oneShot = false) :
    (S.proj t).phiDriven = S.phiDriven := by
  have hrun : (S.proj t).running = S.running := by
    rw [proj_running hS fun _ h => absurd (ho.symm.trans h) Bool.false_ne_true, ho, Bool.and_false, Bool.not_false,
      Bool.and_true]
  rw [phiDriven, phiDriven, hrun, proj_cascade]

/-- R103: a timer its projection leaves phi-driven was so before, a one-shot timer before its instant. -/
theorem TimerState.phiDriven_of_proj (hS : S.Predicted) (h : (S.proj t).phiDriven = true) :
    S.phiDriven = true ∧ (S.oneShot = true → t ≤ S.basis + S.count.toNat) := by
  rcases proj_cases hS t with ⟨hidle, e⟩ | ⟨hphi, hle, _⟩ | ⟨_, _, _, e⟩ | ⟨hphi, ho, _⟩
  · rw [e] at h
    exact absurd (hidle.symm.trans h) Bool.false_ne_true
  · exact ⟨hphi, fun _ => hle⟩
  · rw [e] at h
    exact absurd h Bool.false_ne_true
  · exact ⟨hphi, fun h1 => absurd (ho.symm.trans h1) Bool.false_ne_true⟩

/-- R104(b): a count within the period is projected to one within the period. -/
theorem TimerState.proj_count_le_latch (hS : S.Predicted) (hc : S.count ≤ S.latch) : (S.proj t).count ≤ S.latch := by
  rcases proj_cases hS t with ⟨_, e⟩ | ⟨_, _, _, e⟩ | ⟨_, _, _, e⟩ | ⟨_, _, _, r, e, _⟩
  · rwa [e]
  · rwa [e]
  · rw [e]
    exact Nat.zero_le S.latch.toNat
  · rw [e]
    exact BitVec.le_refl S.latch

/-- R104(e): to read a projection later is to read the later projection. -/
theorem TimerState.valueAt_proj_of_le (hS : S.Predicted) (ho : S.oneShot = false) {q : Nat} (hq : t ≤ q) :
    (S.proj t).valueAt q = S.valueAt q := by
  have hcont (E : TimerState) (hE : E.oneShot = false) :
      E.phiDriven = true → E.oneShot = true → q ≤ E.basis + E.count.toNat :=
    fun _ h => absurd (hE.symm.trans h) Bool.false_ne_true
  calc (S.proj t).valueAt q
    _ = ((S.proj t).proj q).valueAt q :=
      (valueAt_proj (proj_predicted hS t) (hcont _ ((S.proj_oneShot t).trans ho))).symm
    _ = (S.proj q).valueAt q := by rw [proj_proj hS hq]
    _ = S.valueAt q := valueAt_proj hS (hcont S ho)

/-- R104(f) at the projection's own clock: both show 0 there or neither does. -/
theorem TimerState.isInstant_proj_self (hS : S.Predicted) (ht : S.basis ≤ t) (h : (S.proj t).phiDriven = true) :
    (S.proj t).isInstant t = S.isInstant t := by
  obtain ⟨hphi, hbefore⟩ := phiDriven_of_proj hS h
  obtain ⟨hbasis, hsettled, _⟩ := proj_settled hS ht
  rw [Bool.eq_iff_iff, isInstant_iff_valueAt_eq_zero hS hphi ht hbefore,
    isInstant_iff_valueAt_eq_zero (proj_predicted hS t) h hbasis fun _ => hsettled h, valueAt_proj hS fun _ => hbefore]

/-- R104(f): a continuous timer keeps its instants from the projection's clock on. -/
theorem TimerState.isInstant_proj_of_le (hS : S.Predicted) (ht : S.basis ≤ t) (ho : S.oneShot = false) {q : Nat}
    (hq : t ≤ q) : (S.proj t).isInstant q = S.isInstant q := by
  rcases hq.eq_or_lt with rfl | hlt
  · rcases Bool.eq_false_or_eq_true (S.proj t).phiDriven with h | h
    · exact isInstant_proj_self hS ht h
    · rw [isInstant_idle h, isInstant_idle ((proj_phiDriven_of_continuous hS ho).symm.trans h)]
  · exact isInstant_proj hS hlt

/-- R104(g): a projection has no instant before its clock. -/
theorem TimerState.isInstant_proj_before (hS : S.Predicted) (ht : S.basis ≤ t) {q : Nat} (hq : q < t) :
    (S.proj t).isInstant q = false := by
  rcases Bool.eq_false_or_eq_true (S.proj t).phiDriven with h | h
  · obtain ⟨_, hsettled, _⟩ := proj_settled hS ht
    have hle := hsettled h
    rw [Bool.eq_false_iff, ne_eq, isInstant_iff_eq_pred h ((proj_predicted hS t).pred_eq h) (hq.le.trans hle)]
    omega
  · exact isInstant_idle h q

/-- R104(b), (e): the prediction a projection caches. -/
theorem TimerState.proj_pred_spec (hS : S.Predicted) (ht : S.basis ≤ t) (h : (S.proj t).phiDriven = true) :
    ∃ P, (S.proj t).pred = some P ∧ t ≤ P ∧ (P = t ↔ S.isInstant t = true) ∧
      (S.count ≤ S.latch → P ≤ t + S.latch.toNat) ∧ ((S.proj t).valueAt t).toNat = P - t := by
  obtain ⟨hbasis, hsettled, _⟩ := proj_settled hS ht
  have hP := (proj_predicted hS t).pred_eq h
  have hle := hsettled h
  have hcount := (S.proj t).count.isLt
  refine ⟨_, hP, hle, ?_, fun hc => ?_, ?_⟩
  · rw [← isInstant_proj_self hS ht h, isInstant_iff_eq_pred h hP hle]
  · have : (S.proj t).count.toNat ≤ S.latch.toNat := proj_count_le_latch hS hc
    omega
  · rw [valueAt_before h hP hle, BitVec.toNat_ofNat]
    omega

end Projection

-- ---------------------------------------------------------------- VALUE_AT

section ValueAt
variable {p : Params} {clk : Nat} {u : TimerUnit}

theorem valueAtUnit_illegal (h : p.clkLimit < clk) : valueAtUnit p clk u = abort .clkRange u :=
  withLegalClock_illegal u _ h

theorem valueAtUnit_stale (h : clk ≤ p.clkLimit) (hclk : clk ≠ u.lastUpdate) :
    valueAtUnit p clk u = abort .stale u := by
  rw [valueAtUnit, withLegalClock_legal u _ h, if_neg hclk]

theorem valueAtUnit_current (h : clk ≤ p.clkLimit) (hclk : clk = u.lastUpdate) :
    valueAtUnit p clk u =
      { unit := u, result := { fault := 0, n := 0, value := (u.current.valueAt clk).setWidth 40 }, messages := [] } := by
  rw [valueAtUnit, withLegalClock_legal u _ h, if_pos hclk]

theorem exec_valueAt (clk : Nat) (s : State) {c : Completion} (h : valueAtUnit Config.params clk s.unit = c) :
    exec (.valueAt clk) s = .next (s.complete c) := h ▸ exec_eq_complete s (.valueAt clk)

end ValueAt

end Sys2Proof.Machine

namespace Sys2Proof
open Machine

/-- Settles O12, by induction on the end of the interval. -/
theorem cntCountsUnderflowInstants : Obligations.CntCountsUnderflowInstants :=
  fun S _ _ h => S.cnt_eq_card h

/-- Settles O14: a projection is settled, predicted, and its later projections are those of the timer. -/
theorem projectionsCompose : Obligations.ProjectionsCompose := fun _ t1 _ hS h1 h12 =>
  ⟨TimerState.proj_predicted hS t1, (TimerState.proj_settled hS h1).1, TimerState.proj_proj hS h12⟩

/-- Settles O15: read-back and instants go through the later projection; a timer past its single shot is idle at 0. -/
theorem projectionKeepsTheFuture : Obligations.ProjectionKeepsTheFuture := by
  intro S t hS ht
  refine ⟨fun ho q hq => ?_, fun _ q hq => ?_, fun ho hphi hle q => ?_, fun h => ?_⟩
  · exact ⟨TimerState.valueAt_proj_of_le hS ho hq, TimerState.isInstant_proj_of_le hS ht ho hq⟩
  · exact TimerState.isInstant_proj_before hS ht hq
  · rw [TimerState.proj_stops hphi ho (hS.pred_eq hphi) hle, TimerState.valueAt_idle (S.phiDriven_stopped 0 t)]
  · exact TimerState.proj_pred_spec hS ht h

/-- Refutes O16: with the latch lowered to 2 while 5 ticks are to go (section 2.7 row 10), the timer at 24 still has its
instant at 27, after `24 + 2`. -/
theorem not_projectedPredWithinOnePeriodAsPrinted : ¬ Obligations.ProjectedPredWithinOnePeriodAsPrinted := by
  intro h
  obtain ⟨_, hbound⟩ := h ⟨22, some 27, 5, 2, true, false, false, false⟩ 24 27 rfl (by decide) rfl rfl
  exact absurd hbound (by decide)

/-- Settles O28: the clock check comes before the check against `LU`. -/
theorem valueAtAnswersOnlyAtLastUpdate : Obligations.ValueAtAnswersOnlyAtLastUpdate := fun clk s =>
  ⟨fun h => exec_valueAt clk s (valueAtUnit_illegal h), fun h hclk => exec_valueAt clk s (valueAtUnit_stale h hclk),
    fun h hclk => exec_valueAt clk s (valueAtUnit_current h hclk)⟩

end Sys2Proof
end

section
/-! SUPPORT. The History Stack under a control change: what count the derived state starts from, what a push keeps, and
that legal latencies leave it room (`41_history_stack.md` R120, R121, R124). -/

namespace Sys2Proof.Machine

-- ---------------------------------------------------------------- the derived state

section Derive
variable {S : TimerState} {b : Nat} {c : Control}

@[simp] theorem TimerState.derive_phiDriven : (S.derive b c).phiDriven = (c.start && !c.cascade) := rfl

theorem TimerState.derive_count_of_load (hload : c.load = true) : (S.derive b c).count = S.latch := by
  rw [derive_count, if_pos hload, proj_latch]

theorem TimerState.derive_count_of_no_load (hload : c.load = false) : (S.derive b c).count = (S.proj b).valueAt b := by
  rw [derive_count, hload, if_neg Bool.false_ne_true]

theorem TimerState.derive_count_idle (hload : c.load = false) (h : S.phiDriven = false) :
    (S.derive b c).count = S.count := by
  rw [derive_count_of_no_load hload, proj_idle h, valueAt_idle (S := { S with basis := b }) h]

/-- R120 on a continuous predecessor: its projection shows what it shows, and that is its count ticked on. -/
theorem TimerState.derive_count_continuous (hS : S.Predicted) (hb : S.basis ≤ b) (hload : c.load = false)
    (h : S.phiDriven = true) (ho : S.oneShot = false) :
    (S.derive b c).count = (tickedCount S.latch)^[b - S.basis] S.count := by
  have hspent : S.phiDriven = true → S.oneShot = true → b ≤ S.basis + S.count.toNat :=
    fun _ h1 => absurd (ho.symm.trans h1) Bool.false_ne_true
  calc (S.derive b c).count
      = S.valueAt (S.basis + (b - S.basis)) := by
        rw [derive_count_of_no_load hload, valueAt_proj hS hspent, Nat.add_sub_cancel' hb]
    _ = (tickedCount S.latch)^[b - S.basis] S.count := by rw [valueAt_basis_add hS h, iterate_tickedCount]

/-- R120 on a one-shot predecessor: the ticks left to its underflow, and 0 from there on. -/
theorem TimerState.derive_count_oneShot (hS : S.Predicted) (hb : S.basis ≤ b) (hload : c.load = false)
    (h : S.phiDriven = true) (ho : S.oneShot = true) :
    (S.derive b c).count.toNat = S.basis + S.count.toNat - b := by
  have hP := hS.pred_eq h
  rw [derive_count_of_no_load hload]
  rcases Nat.lt_or_ge b (S.basis + S.count.toNat) with hlt | hge
  · have hcount : S.count.toNat < 2 ^ 16 := S.count.isLt
    rw [proj_early h hP hlt, valueAt_before h hP hlt.le, BitVec.toNat_ofNat, Nat.mod_eq_of_lt (by omega)]
  · rw [proj_stops h ho hP hge, valueAt_idle (S.phiDriven_stopped 0 b), Nat.sub_eq_zero_of_le hge]
    rfl

/-- R102: the instants of the tick to `b` are `b` or none. -/
theorem TimerState.cnt_last_tick (S : TimerState) (hb : 0 < b) :
    S.cnt (b - 1) b = if S.isInstant b = true then 1 else 0 := by
  have hsucc := S.cnt_succ (le_refl (b - 1))
  rwa [Nat.sub_add_cancel hb, cnt_self, Nat.zero_add] at hsucc

/-- R100, R101: a phi-driven state that starts from 0 has an instant at its basis. -/
theorem TimerState.isInstant_basis (hS : S.Predicted) (h : S.phiDriven = true) (hzero : S.count = 0) :
    S.isInstant S.basis = true :=
  (isInstant_iff_valueAt_eq_zero hS h le_rfl fun _ => Nat.le_add_right _ _).mpr ((valueAt_basis hS).trans hzero)

end Derive

-- ---------------------------------------------------------------- a push

section Push
variable {p : Params} {u : TimerUnit} {b : Nat}

/-- R121, R124: a push finds the stack full when 3 pending entries stay beside the current one. -/
theorem TimerUnit.pushOverflows_iff (h : Rising u.pending) :
    u.pushOverflows b = true ↔ 3 ≤ (u.pending.filter fun E => E.basis < b).length := by
  rw [pushOverflows, keepBefore_eq_filter b h, decide_eq_true_iff, depth]
  omega

theorem TimerUnit.push_pending (h : Rising u.pending) (c : Control) :
    (u.push b c).pending =
      (u.pending.filter fun E => E.basis < b) ++
        [(newest u.current (u.pending.filter fun E => E.basis < b)).derive b c] := by
  rw [push, keepBefore_eq_filter b h]

/-- R26(d), R121: what stays lies below the new basis. -/
theorem TimerUnit.push_rising (h : Rising u.pending) (c : Control) : Rising (u.push b c).pending := by
  rw [push_pending h]
  refine List.pairwise_append.mpr ⟨h.filter _, List.pairwise_singleton _ _, fun E hE F hF => ?_⟩
  rw [List.mem_singleton.mp hF]
  exact of_decide_eq_true (List.mem_filter.mp hE).2

theorem TimerUnit.push_len (h : Rising u.pending) (c : Control) :
    (u.push b c).len = (u.pending.filter fun E => E.basis < b).length + 2 := by
  rw [len, stack, push_pending h, List.length_cons, List.length_append, List.length_singleton]

theorem Progress.writeControl_full {w : Progress} {c : Control}
    (h : w.unit.pushOverflows (w.unit.lastUpdate + latency p w.unit.top.running c) = true) :
    w.writeControl p c = w.raise .stkOvf := if_pos h

theorem Progress.writeControl_fits {w : Progress} {c : Control}
    (h : w.unit.pushOverflows (w.unit.lastUpdate + latency p w.unit.top.running c) = false) :
    w.writeControl p c =
      { w with unit := w.unit.push (w.unit.lastUpdate + latency p w.unit.top.running c) c } :=
  if_neg (Bool.eq_false_iff.mp h)

end Push

-- ---------------------------------------------------------------- the room legal latencies leave

/-- Rising bases in `lo + 1 .. hi` are at most `hi - lo` many. -/
theorem Rising.length_le {l : List TimerState} (h : Rising l) {lo hi : Nat}
    (hl : ∀ E ∈ l, lo < E.basis ∧ E.basis ≤ hi) : l.length ≤ hi - lo := by
  induction l generalizing lo with
  | nil => exact Nat.zero_le _
  | cons E l ih =>
    obtain ⟨hlo, hhi⟩ := hl E (List.mem_cons_self ..)
    have hrest : l.length ≤ hi - E.basis := ih h.of_cons fun F hF =>
      ⟨List.rel_of_pairwise_cons h hF, (hl F (List.mem_cons_of_mem _ hF)).2⟩
    rw [List.length_cons]
    omega

section Room
variable {p : Params} {u : TimerUnit}

/-- R26(a), (c), (d), R124: the pending entries have different clocks within `LAT_RESTART` of `LU`. -/
theorem TimerUnit.Sound.len_le (hp : p.legal = true) (h : u.Sound p) : u.len ≤ 4 := by
  have hpending : u.pending.length ≤ u.lastUpdate + p.latRestart - u.lastUpdate :=
    Rising.length_le h.rising h.ordered.1
  obtain ⟨_, _, hrestart, _⟩ := (params_legal_iff p).mp hp
  rw [len, stack, List.length_cons]
  omega

/-- R124, R155: at legal latencies a control write raises nothing. -/
theorem Progress.writeControl_raised (hp : p.legal = true) {w : Progress} (h : w.unit.Sound p) (c : Control) :
    (w.writeControl p c).raised = w.raised := by
  obtain ⟨_, _, hrestart, _⟩ := (params_legal_iff p).mp hp
  have hlat := (latency_bounds hp w.unit.top.running c).2
  rw [writeControl_fits (h.not_pushOverflows (by omega))]

theorem TimerUnit.advance_raised_stkOvf (u : TimerUnit) (T : Nat) : (u.advance T).raised.getLsbD 2 = false := by
  rw [(u.advance_fault T).2]
  split <;> rfl

/-- R124, R225: a control write is refused for its byte or its clock, or finds room on the stack. -/
theorem setControlUnit_not_stkOvf (hp : p.legal = true) (h : u.Sound p) (clk : Nat) (data : Byte) :
    (setControlUnit p clk data u).result.fault.getLsbD 2 = false := by
  unfold setControlUnit
  split
  · rw [abort_result]
    rfl
  · rcases clocked_cases p clk u (Progress.writeControl p (decodeControl data)) noValue with ⟨_, e⟩ | ⟨_, e⟩
    · rw [e, Progress.finish_fault, Progress.writeControl_raised hp (h.advance clk)]
      exact u.advance_raised_stkOvf clk
    · rw [e, abort_result]
      rfl

end Room

end Sys2Proof.Machine

namespace Sys2Proof
open Machine

/-- Settles O17: field by field, with the count by the predecessor's mode. -/
theorem derivedStateStartsWhereThePredecessorIs : Obligations.DerivedStateStartsWhereThePredecessorIs :=
  fun S b c hS hb =>
    ⟨rfl, S.derive_latch b c, rfl, rfl, rfl, rfl, S.derive_predicted b c, TimerState.derive_count_of_load,
      TimerState.derive_count_idle, TimerState.derive_count_continuous hS hb.le,
      TimerState.derive_count_oneShot hS hb.le⟩

/-- Settles O18: the derived state starts from 0, so its basis is its underflow. -/
theorem startingFromZeroUnderflowsAtOnce : Obligations.StartingFromZeroUnderflowsAtOnce := by
  intro S b c _ hb hzero hload hstart hcascade
  have hD := S.derive_predicted b c
  have hphi : (S.derive b c).phiDriven = true := by rw [TimerState.derive_phiDriven, hstart, hcascade]; rfl
  have hcount : (S.derive b c).count = 0 := (TimerState.derive_count_of_no_load hload).trans hzero
  have hinstant : (S.derive b c).isInstant b = true := TimerState.isInstant_basis hD hphi hcount
  refine ⟨?_, ?_⟩
  · rw [hD.pred_eq hphi, hcount]
    rfl
  · rw [TimerState.cnt_last_tick _ (Nat.zero_lt_of_lt hb), if_pos hinstant]

/-- Settles O19: on rising bases the discards of a push are a filter, and the stack is full when 3 entries pass it. -/
theorem pushSupersedesLaterEntries : Obligations.PushSupersedesLaterEntries := by
  refine ⟨fun p u b c hInv _ => ?_, fun p w c hfull => Progress.writeControl_full hfull⟩
  have hrising := hInv.sound.rising
  refine ⟨fun hroom => ⟨?_, TimerUnit.push_pending hrising c, TimerUnit.push_rising hrising c, ?_, rfl, rfl, rfl, rfl⟩,
    (TimerUnit.pushOverflows_iff hrising).mpr⟩
  · rw [Bool.eq_false_iff, ne_eq, TimerUnit.pushOverflows_iff hrising]
    exact Nat.not_le.mpr hroom
  · rw [TimerUnit.push_len hrising]
    omega

/-- Settles O20: at most 3 different clocks lie within `LAT_RESTART` of `LU`, before a control write and after it. -/
theorem stackNeverOverflows : Obligations.StackNeverOverflows := fun _ _ clk data hp hInv =>
  ⟨hInv.sound.len_le hp, setControlUnit_not_stkOvf hp hInv.sound clk data,
    (setControlUnit_inv clk hp hInv data).sound.len_le hp⟩

end Sys2Proof
end

section
/-! SUPPORT. The update over whole intervals (`42_advance.md` R140 to R147): what it counts as a cardinality over the
entries that govern, when it sets `os`, that updates add up, and an update below `LU` through a whole command. -/

namespace Sys2Proof.Machine

-- ---------------------------------------------------------------- the stops of one-shot timers

/-- Clock `x` is the underflow instant of a one-shot entry. -/
def TimerState.StopsAt (S : TimerState) (x : Nat) : Prop := S.isInstant x = true ∧ S.oneShot = true

theorem TimerState.stopsAt_iff {S : TimerState} {P : Nat} (h : S.phiDriven = true) (ho : S.oneShot = true)
    (hP : S.pred = some P) (x : Nat) : S.StopsAt x ↔ x = P := by
  rw [StopsAt, isInstant_oneShot h ho hP, and_iff_left ho]

/-- What R143 tests for `os`: a one-shot entry has its single instant in the window. -/
theorem TimerState.oneShot_cnt_eq_one_iff (S : TimerState) (lo hi : Nat) :
    (S.oneShot && S.cnt lo hi == 1) = true ↔ ∃ x, lo < x ∧ x ≤ hi ∧ S.StopsAt x := by
  rcases Bool.eq_false_or_eq_true S.oneShot with ho | ho
  · rcases Bool.eq_false_or_eq_true S.phiDriven with h | h
    · rcases hP : S.pred with _ | P
      · simp [cnt, StopsAt, isInstant, hP]
      · simp only [stopsAt_iff h ho hP, ho, Bool.true_and, beq_iff_eq]
        rcases Nat.lt_or_ge hi P with hlt | hge
        · rw [cnt_early hP hlt]
          exact iff_of_false Nat.zero_ne_one fun ⟨x, _, hx, e⟩ => by omega
        · rw [cnt_oneShot h ho hP hge]
          exact ⟨fun hcnt => ⟨P, by_contra fun hlo => by simp [hlo] at hcnt, hge, rfl⟩,
            fun ⟨x, hlo, _, e⟩ => if_pos (e ▸ hlo)⟩
    · simp [cnt_idle h, StopsAt, isInstant_idle h]
  · simp [StopsAt, ho]

/-- A window cut in two at `mid`. -/
theorem exists_window_split {lo mid hi : Nat} (hlo : lo ≤ mid) (hhi : mid ≤ hi) {Q : Nat → Prop} :
    (∃ x, lo < x ∧ x ≤ hi ∧ Q x) ↔ (∃ x, lo < x ∧ x ≤ mid ∧ Q x) ∨ ∃ x, mid < x ∧ x ≤ hi ∧ Q x := by
  constructor
  · rintro ⟨x, hx, hx', hQ⟩
    rcases Nat.lt_or_ge mid x with h | h
    · exact .inr ⟨x, h, hx', hQ⟩
    · exact .inl ⟨x, hx, h, hQ⟩
  · rintro (⟨x, hx, hx', hQ⟩ | ⟨x, hx, hx', hQ⟩)
    · exact ⟨x, hx, hx'.trans hhi, hQ⟩
    · exact ⟨x, hlo.trans_lt hx, hx', hQ⟩

theorem exists_window_congr {lo hi : Nat} {Q R : Nat → Prop} (h : ∀ x, lo < x → x ≤ hi → (Q x ↔ R x)) :
    (∃ x, lo < x ∧ x ≤ hi ∧ Q x) ↔ ∃ x, lo < x ∧ x ≤ hi ∧ R x :=
  exists_congr fun x => and_congr_right fun hlo => and_congr_right fun hhi => h x hlo hhi

-- ---------------------------------------------------------------- os of an update

theorem governing_cons_of_lt {q : Nat} {E : TimerState} (h : q < E.basis) (S : TimerState) (l : List TimerState) :
    governing q S (E :: l) = S := if_neg (Nat.not_le.mpr h)

/-- What an update puts in `os` from the windows it drops and the last one together. -/
def Collapsed.totalOs (r : Collapsed) (T : Nat) : Bool := r.os || (r.current.oneShot && r.current.cnt r.lo T == 1)

theorem TimerUnit.advanceTo_os (u : TimerUnit) (T : Nat) :
    (u.advanceTo T).os = (collapse T u.lastUpdate u.current u.pending).totalOs T := rfl

theorem collapse_totalOs_folds {T : Nat} {E : TimerState} (h : E.basis ≤ T) (lo : Nat) (S : TimerState)
    (l : List TimerState) :
    (collapse T lo S (E :: l)).totalOs T =
      ((S.oneShot && S.cnt lo (E.basis - 1) == 1) || (collapse T (E.basis - 1) E l).totalOs T) := by
  rw [collapse_folds lo S l h]
  exact Bool.or_assoc _ _ _

theorem collapse_totalOs_stops {T : Nat} {E : TimerState} (h : T < E.basis) (lo : Nat) (S : TimerState)
    (l : List TimerState) : (collapse T lo S (E :: l)).totalOs T = (S.oneShot && S.cnt lo T == 1) := by
  rw [collapse_stops lo S l h]
  rfl

/-- R140, R143: `os` is set exactly when a one-shot entry has its instant in the part of the interval it governs. -/
theorem collapse_totalOs_iff {T lo : Nat} (S : TimerState) {l : List TimerState} (hl : Rising l)
    (hbasis : ∀ E ∈ l, lo < E.basis) :
    (collapse T lo S l).totalOs T = true ↔ ∃ x, lo < x ∧ x ≤ T ∧ (governing x S l).StopsAt x := by
  induction l generalizing lo S with
  | nil => exact S.oneShot_cnt_eq_one_iff lo T
  | cons E l ih =>
    have hlo : lo < E.basis := hbasis E (List.mem_cons_self ..)
    rcases Nat.lt_or_ge T E.basis with h | h
    · rw [collapse_totalOs_stops h, S.oneShot_cnt_eq_one_iff]
      exact exists_window_congr fun x _ hx => by rw [governing_cons_of_lt (hx.trans_lt h)]
    · have hrest : ∀ F ∈ l, E.basis - 1 < F.basis := fun F hF =>
        Nat.lt_of_le_of_lt (Nat.sub_le _ _) (List.rel_of_pairwise_cons hl hF)
      rw [collapse_totalOs_folds h, Bool.or_eq_true, S.oneShot_cnt_eq_one_iff, ih E hl.of_cons hrest,
        exists_window_split (lo := lo) (mid := E.basis - 1) (hi := T) (by omega) (by omega)]
      refine or_congr (exists_window_congr fun x _ hx => ?_) (exists_window_congr fun x hx _ => ?_)
      · rw [governing_cons_of_lt (by omega)]
      · rw [governing_cons_of_le (by omega)]

-- ---------------------------------------------------------------- a sound unit's update

section SoundUnit
variable {p : Params} {u : TimerUnit}

/-- R140: the count of an update and the cardinality grow alike as the interval grows by one clock. -/
theorem TimerUnit.Sound.advanceTo_n_eq_card (h : u.Sound p) {T : Nat} (hT : u.lastUpdate ≤ T) :
    (u.advanceTo T).n = ((Finset.Ioc u.lastUpdate T).filter fun x => u.instantOfHistory x = true).card := by
  induction T, hT using Nat.le_induction with
  | base => rw [h.advanceTo_self_n, Finset.Ioc_self, Finset.filter_empty, Finset.card_empty]
  | succ T hT ih =>
    rw [h.advanceTo_n_succ hT, ih, Finset.card_filter, Finset.card_filter, Finset.sum_Ioc_succ_top hT]

theorem TimerUnit.Sound.advanceTo_os_iff (h : u.Sound p) (T : Nat) :
    (u.advanceTo T).os = true ↔
      ∃ x, u.lastUpdate < x ∧ x ≤ T ∧ (governing x u.current u.pending).StopsAt x := by
  rw [TimerUnit.advanceTo_os]
  exact collapse_totalOs_iff u.current h.rising fun _ hE => h.lt_basis hE

/-- R147(a): an update to `LU` sets no `os`. -/
theorem TimerUnit.Sound.advanceTo_self_os (h : u.Sound p) : (u.advanceTo u.lastUpdate).os = false := by
  rw [Bool.eq_false_iff, ne_eq, h.advanceTo_os_iff]
  rintro ⟨x, hlo, hhi, _⟩
  omega

/-- R147(b), the count. -/
theorem TimerUnit.Sound.advanceTo_n_add (h : u.Sound p) {t1 t2 : Nat} (h1 : u.lastUpdate ≤ t1) (h12 : t1 ≤ t2) :
    (u.advanceTo t1).n + ((u.advanceTo t1).unit.advanceTo t2).n = (u.advanceTo t2).n := by
  have hnext := h.advanceTo h1
  induction t2, h12 using Nat.le_induction with
  | base => exact congrArg ((u.advanceTo t1).n + ·) hnext.advanceTo_self_n
  | succ t2 h12 ih =>
    rw [hnext.advanceTo_n_succ h12, h.advanceTo_n_succ (h1.trans h12),
      h.advanceTo_instantOfHistory (Nat.lt_succ_of_le h12), ← ih, Nat.add_assoc]

/-- R147(b): an update leaves the later stops as they were. -/
theorem TimerUnit.Sound.advanceTo_stopsAt (h : u.Sound p) {T x : Nat} (hx : T < x) :
    (governing x (u.advanceTo T).unit.current (u.advanceTo T).unit.pending).StopsAt x ↔
      (governing x u.current u.pending).StopsAt x := by
  rw [h.advanceTo_current, h.advanceTo_pending]
  refine iff_of_eq (governing_after_proj hx.le (TimerState.StopsAt · x) (fun X hX => ?_) h.rising h.predicted)
  simp only [TimerState.StopsAt, TimerState.isInstant_proj hX hx, TimerState.proj_oneShot]

/-- R147(b), the `os` bit. -/
theorem TimerUnit.Sound.advanceTo_os_or (h : u.Sound p) {t1 t2 : Nat} (h1 : u.lastUpdate ≤ t1) (h12 : t1 ≤ t2) :
    ((u.advanceTo t1).os || ((u.advanceTo t1).unit.advanceTo t2).os) = (u.advanceTo t2).os := by
  rw [Bool.eq_iff_iff, Bool.or_eq_true, h.advanceTo_os_iff, h.advanceTo_os_iff, (h.advanceTo h1).advanceTo_os_iff,
    exists_window_split h1 h12]
  exact or_congr_right (exists_window_congr fun x hx _ => h.advanceTo_stopsAt hx)

/-- R147(a): a second update to the same clock. -/
theorem TimerUnit.Sound.advanceTo_twice (h : u.Sound p) {T : Nat} (hT : u.lastUpdate ≤ T) :
    (u.advanceTo T).unit.advanceTo T = { unit := (u.advanceTo T).unit, n := 0, os := false, raised := 0 } := by
  have hnext := h.advanceTo hT
  have hunit : ((u.advanceTo T).unit.advanceTo T).unit = (u.advanceTo T).unit :=
    h.advanceTo_advanceTo_unit hT le_rfl
  have hn : ((u.advanceTo T).unit.advanceTo T).n = 0 := hnext.advanceTo_self_n
  have hos : ((u.advanceTo T).unit.advanceTo T).os = false := hnext.advanceTo_self_os
  calc (u.advanceTo T).unit.advanceTo T
    _ = { unit := ((u.advanceTo T).unit.advanceTo T).unit, n := ((u.advanceTo T).unit.advanceTo T).n,
          os := ((u.advanceTo T).unit.advanceTo T).os, raised := 0 } := rfl
    _ = { unit := (u.advanceTo T).unit, n := 0, os := false, raised := 0 } := by rw [hunit, hn, hos]

/-- R147(c): an update past the instant of a one-shot timer counts it and stops the timer at 0. -/
theorem TimerUnit.advanceTo_oneShot {P T : Nat} (hpending : u.pending = []) (hphi : u.current.phiDriven = true)
    (ho : u.current.oneShot = true) (hP : u.current.pred = some P) (hlo : u.lastUpdate < P) (hT : P ≤ T) :
    (u.advanceTo T).n = 1 ∧ (u.advanceTo T).os = true ∧ (u.advanceTo T).unit.current.running = false ∧
      (u.advanceTo T).unit.current.count = 0 := by
  have hcollapse : collapse T u.lastUpdate u.current u.pending =
      { current := u.current, pending := [], lo := u.lastUpdate, n := 0, os := false } := by rw [hpending, collapse_nil]
  have hcnt : u.current.cnt u.lastUpdate T = 1 := by rw [TimerState.cnt_oneShot hphi ho hP hT, if_pos hlo]
  have hproj := TimerState.proj_stops hphi ho hP hT
  refine ⟨?_, ?_, ?_, ?_⟩
  · rw [TimerUnit.advanceTo_n, hcollapse]
    exact (Nat.zero_add _).trans hcnt
  · rw [TimerUnit.advanceTo_os, hcollapse]
    simp [Collapsed.totalOs, ho, hcnt]
  · simp [TimerUnit.advanceTo, hcollapse, hproj]
  · simp [TimerUnit.advanceTo, hcollapse, hproj]

end SoundUnit

-- ---------------------------------------------------------------- a fault raised before the body of a command

theorem Progress.raise_comm (w : Progress) (j k : FaultKind) : (w.raise j).raise k = (w.raise k).raise j := by
  simp only [Progress.raise, TimerUnit.raise, BitVec.or_assoc, BitVec.or_comm j.bit k.bit]

/-- No body looks at `FAULT`: a fault raised before it is as one raised after it. -/
theorem bodyOf_raise (p : Params) (i : Instr) (w : Progress) (k : FaultKind) :
    bodyOf p i (w.raise k) = (bodyOf p i w).raise k := by
  rcases bodyOf_cases p i with ⟨newlatch, e⟩ | ⟨c, e⟩ | ⟨n, e⟩ | e
  · rw [e]
    rfl
  · rw [e]
    rcases Bool.eq_false_or_eq_true
      (w.unit.pushOverflows (w.unit.lastUpdate + latency p w.unit.top.running c)) with hfull | hfits
    · rw [Progress.writeControl_full hfull, Progress.writeControl_full (by exact hfull), Progress.raise_comm]
    · rw [Progress.writeControl_fits hfits, Progress.writeControl_fits (by exact hfits)]
      rfl
  · rw [e]
    unfold Progress.siblingTicks
    dsimp only [Progress.raise_unit, TimerUnit.raise_current]
    split
    · rfl
    · rfl
  · rw [e]
    rfl

/-- A completion with one more fault bit set, in `FAULT` and in the result (R222). -/
def Completion.raise (c : Completion) (k : FaultKind) : Completion :=
  { c with unit := c.unit.raise k, result := { c.result with fault := c.result.fault ||| k.bit } }

/-- The report passes a fault raised before it on, and changes nothing else for it (R150, R222). -/
theorem Progress.finish_raise (w : Progress) (k : FaultKind) {value : TimerUnit → Arg}
    (hvalue : ∀ v : TimerUnit, value (v.raise k) = value v) :
    (w.raise k).finish value = (w.finish value).raise k := by
  simp only [Progress.finish, Progress.raise_unit, hvalue]
  rfl

-- ---------------------------------------------------------------- the commands that update

theorem withClock_clockField (i : Instr) : i.withClock i.clockField = i := by cases i <;> rfl

section Updating
variable {p : Params} {u : TimerUnit} {i : Instr}

theorem clocked_illegal {clk : Nat} (body : Progress → Progress) (value : TimerUnit → Arg) (h : p.clkLimit < clk) :
    clocked p clk body value u = abort .clkRange u := withLegalClock_illegal u _ h

/-- R154: a well-formed control byte passes its check. -/
theorem setControlUnit_wellFormed {data : Byte} (h : controlMalformed data = false) (clk : Nat) :
    setControlUnit p clk data u = clocked p clk (Progress.writeControl p (decodeControl data)) noValue u :=
  if_neg (Bool.eq_false_iff.mp h)

theorem noValue_raise (v : TimerUnit) (k : FaultKind) : noValue (v.raise k) = noValue v := rfl

/-- R170: no register shows `FAULT`. -/
theorem TimerUnit.registerByte_raise (v : TimerUnit) (k : FaultKind) (rs : RegSelect) :
    (v.raise k).registerByte rs = v.registerByte rs := by cases rs <;> rfl

/-- R150 for one command, said for all its clocks at once: at a legal clock it updates (`ACK_ALARM` with `AAC` taken
back first, R157), runs its body and reports, with a result value that does not look at `FAULT`. -/
def UpdatesAndReports (p : Params) (u : TimerUnit) (i : Instr) : Prop :=
  ∃ (a : Deadline) (value : TimerUnit → Arg), (∀ (v : TimerUnit) (k : FaultKind), value (v.raise k) = value v) ∧
    ∀ c, c ≤ p.clkLimit →
      completionOf (i.withClock c) u p = (bodyOf p i (TimerUnit.advance { u with armed := a } c)).finish value

theorem updatesAndReports_of_clocked {body : Progress → Progress} {value : TimerUnit → Arg}
    (hbody : bodyOf p i = body) (hvalue : ∀ (v : TimerUnit) (k : FaultKind), value (v.raise k) = value v)
    (hi : ∀ c, completionOf (i.withClock c) u p = clocked p c body value u) : UpdatesAndReports p u i :=
  ⟨u.armed, value, hvalue, fun c hc => by rw [hi, clocked_legal u body value hc, hbody]⟩

theorem ackAlarm_updatesAndReports (clk : Nat) : UpdatesAndReports p u (Instr.ackAlarm clk) :=
  ⟨none, noValue, noValue_raise, fun _ hc =>
    withLegalClock_legal u (fun v => (TimerUnit.advance { v with armed := none } _).finish noValue) hc⟩

theorem regRead_updatesAndReports (clk : Nat) {rs : RegSelect} (h : rs.isReserved = false) :
    UpdatesAndReports p u (Instr.regRead clk rs) := by
  refine updatesAndReports_of_clocked (value := fun v => ((v.registerByte rs).getD 0).setWidth 40) rfl
    (fun v k => by simp only [TimerUnit.registerByte_raise]) fun c => ?_
  cases rs with
  | countLo | countHi | latchLo | latchHi | control => rfl
  | reserved5 | reserved6 | reserved7 => exact absurd h.symm Bool.false_ne_true

theorem regWrite_updatesAndReports (clk : Nat) {rs : RegSelect} {data : Byte} (hcount : rs.isCount = false)
    (hreserved : rs.isReserved = false) (hcontrol : rs = .control → controlMalformed data = false) :
    UpdatesAndReports p u (Instr.regWrite clk rs data) := by
  cases rs with
  | latchLo | latchHi => exact updatesAndReports_of_clocked rfl noValue_raise fun _ => rfl
  | control =>
    exact updatesAndReports_of_clocked rfl noValue_raise fun c => setControlUnit_wellFormed (hcontrol rfl) c
  | countLo | countHi => exact absurd hcount.symm Bool.false_ne_true
  | reserved5 | reserved6 | reserved7 => exact absurd hreserved.symm Bool.false_ne_true

/-- The commands that update are clocked commands, but for `ACK_ALARM` (R150, R157, R170, R171). -/
theorem updatesAndReports_of_updates (hi : i.updates = true) (hop : i.operandFault = none) :
    UpdatesAndReports p u i := by
  cases i with
  | advance | setLatchLo | setLatchHi | cascadeTick | snapshot =>
    exact updatesAndReports_of_clocked rfl (fun _ _ => rfl) fun _ => rfl
  | setControl clk data =>
    have hdata : controlMalformed data = false := by simpa [Instr.operandFault] using hop
    exact updatesAndReports_of_clocked rfl noValue_raise fun c => setControlUnit_wellFormed hdata c
  | ackAlarm clk => exact ackAlarm_updatesAndReports clk
  | regRead clk rs => exact regRead_updatesAndReports clk (by simpa [Instr.operandFault] using hop)
  | regWrite clk rs data =>
    have hcount : rs.isCount = false := Bool.not_eq_true' _ ▸ hi
    have hreserved : rs.isReserved = false := by
      rw [Bool.eq_false_iff]
      intro h
      simp [Instr.operandFault, h] at hop
    have hcontrol : rs = .control → controlMalformed data = false := by
      simpa [Instr.operandFault, hreserved] using hop
    exact regWrite_updatesAndReports clk hcount hreserved hcontrol
  | reset | valueAt | rebase | restore => exact absurd hi Bool.false_ne_true

/-- R141, R224: at a clock below a legal `LU` a command that updates does what it does at `LU`, with `REGRESS` raised. -/
theorem completionOf_regress (hi : i.updates = true) (hop : i.operandFault = none)
    (hlu : u.lastUpdate ≤ p.clkLimit) (hclk : i.clockField < u.lastUpdate) :
    completionOf i u p = (completionOf (i.withClock u.lastUpdate) u p).raise .regress := by
  obtain ⟨a, value, hvalue, hat⟩ := updatesAndReports_of_updates (p := p) (u := u) hi hop
  have hregress : TimerUnit.advance { u with armed := a } i.clockField =
      (TimerUnit.advance { u with armed := a } u.lastUpdate).raise .regress := by
    rw [TimerUnit.advance_regress (by exact hclk), TimerUnit.advance_forward (by exact le_rfl)]
  calc completionOf i u p
    _ = completionOf (i.withClock i.clockField) u p := by rw [withClock_clockField]
    _ = (bodyOf p i (TimerUnit.advance { u with armed := a } i.clockField)).finish value :=
      hat _ (hclk.le.trans hlu)
    _ = ((bodyOf p i (TimerUnit.advance { u with armed := a } u.lastUpdate)).finish value).raise .regress := by
      rw [hregress, bodyOf_raise, Progress.finish_raise _ _ fun v => hvalue v _]
    _ = (completionOf (i.withClock u.lastUpdate) u p).raise .regress := by rw [hat _ hlu]

end Updating

end Sys2Proof.Machine

namespace Sys2Proof
open Machine

/-- Settles O21, by induction on the clock for `n` and on the pending entries for `os`. -/
theorem advanceCountsEachInstantOnce : Obligations.AdvanceCountsEachInstantOnce := by
  intro p u T hu hT
  rw [TimerUnit.advance_forward hT]
  exact ⟨hu.sound.advanceTo_n_eq_card hT, hu.sound.advanceTo_os_iff T⟩

/-- Settles O22: the collapse ends at the governing entry, above the entries still to come. -/
theorem advanceLeavesTheGoverningEntry : Obligations.AdvanceLeavesTheGoverningEntry := by
  intro p u T hu hT
  rw [TimerUnit.advance_forward hT]
  exact ⟨hu.sound.advanceTo_unit T, rfl⟩

/-- Settles O23: no clock lies between the two updates, and projections compose. -/
theorem advanceTwiceCountsNothing : Obligations.AdvanceTwiceCountsNothing := by
  intro p u T hu hT
  rw [TimerUnit.advance_forward hT, TimerUnit.advance_forward (by exact le_rfl), hu.sound.advanceTo_twice hT]

/-- Settles O24: the first update leaves the instants after its clock, so the windows of the two join. -/
theorem advancesAdd : Obligations.AdvancesAdd := by
  intro p u t1 t2 hu h1 h12
  rw [TimerUnit.advance_forward h1, TimerUnit.advance_forward (by exact h12),
    TimerUnit.advance_forward (h1.trans h12)]
  exact ⟨hu.sound.advanceTo_advanceTo_unit h1 h12, hu.sound.advanceTo_n_add h1 h12, hu.sound.advanceTo_os_or h1 h12⟩

/-- Settles O25: one update to either clock counts the one underflow, and updates add. -/
theorem oneShotStopsExactlyOnce : Obligations.OneShotStopsExactlyOnce := by
  intro p u P T T' hu hpending hphi ho hP hlo hT hT'
  have h1 : u.lastUpdate ≤ T := hlo.le.trans hT
  obtain ⟨hn, hos, hrun, hcount⟩ := TimerUnit.advanceTo_oneShot hpending hphi ho hP hlo hT
  obtain ⟨hn', _, hrun', hcount'⟩ := TimerUnit.advanceTo_oneShot hpending hphi ho hP hlo (hT.trans hT')
  have hadd := hu.sound.advanceTo_n_add h1 hT'
  rw [TimerUnit.advance_forward h1, TimerUnit.advance_forward (by exact hT'),
    hu.sound.advanceTo_advanceTo_unit h1 hT']
  exact ⟨hn, hos, hrun, hcount, by omega, hrun', hcount'⟩

/-- Settles O26, by induction on the ticks to `T`. -/
theorem advanceMatchesPerTickMachine : Obligations.AdvanceMatchesPerTickMachine := by
  intro p u r T hu hd ht hT
  obtain ⟨htracks, hev⟩ := hu.sound.tracks_runTo hd ht hT
  rw [TimerUnit.advance_forward hT]
  exact ⟨htracks, hev, hu.sound.advanceTo_not_dead T⟩

/-- Settles O51: neither the body nor the report looks at the fault the clamped update raised. -/
theorem regressingCommandRunsAtLastUpdate : Obligations.RegressingCommandRunsAtLastUpdate := by
  intro i s t hs hi hop hclk h
  rw [exec_eq_complete] at h ⊢
  cases h
  rw [completionOf_regress hi hop hs.lastUpdate_le hclk]
  exact ⟨_, rfl, rfl⟩

/-- Settles O27: `ADVANCE` is the common shape of R150 with an empty body and no value. -/
theorem advanceCommandReports : Obligations.AdvanceCommandReports := by
  intro clk s
  refine ⟨fun hclk => ?_, fun hclk => ?_⟩
  · have hunit : completionOf (.advance clk) s.unit = abort .clkRange s.unit := clocked_illegal id noValue hclk
    rw [exec_eq_complete, hunit]
    rfl
  · have hunit : completionOf (.advance clk) s.unit = (s.unit.advance clk).finish noValue :=
      clocked_legal s.unit id noValue hclk
    rw [exec_eq_complete, hunit]
    rfl

end Sys2Proof
end

section
/-! SUPPORT. The Control Protocol (`43_control_protocol.md` R150 to R159): what each body adds to the report of its
command, and what it does to the entry in force and to the pending entries. -/

namespace Sys2Proof.Machine

-- ---------------------------------------------------------------- the update of a command

/-- An update carries `AAC` along (`42_advance.md` R148). -/
theorem TimerUnit.advance_withArmed (u : TimerUnit) (a : Deadline) (T : Nat) :
    TimerUnit.advance { u with armed := a } T =
      { u.advance T with unit := { (u.advance T).unit with armed := a } } := by
  rcases u.advance_cases T with ⟨h, e⟩ | ⟨h, e⟩
  · rw [e, TimerUnit.advance_forward (by exact h)]
    rfl
  · rw [e, TimerUnit.advance_regress (by exact h)]
    rfl

theorem TimerUnit.advance_lastUpdate_forward {u : TimerUnit} {T : Nat} (h : u.lastUpdate ≤ T) :
    (u.advance T).unit.lastUpdate = T := (u.advance_lastUpdate T).trans (max_eq_left h)

/-- `AAC` as the update of a command finds it: the dispatch that `ACK_ALARM` answers consumed it (R157). -/
def armedBefore (u : TimerUnit) : Instr → Deadline
  | .ackAlarm _ => none
  | _ => u.armed

theorem armedBefore_eq (u : TimerUnit) (i : Instr) :
    armedBefore u i = if i = .ackAlarm i.clockField then none else u.armed := by
  cases i with
  | ackAlarm clk => exact (if_pos rfl).symm
  | reset | advance | valueAt | setLatchLo | setLatchHi | setControl | regRead | regWrite | cascadeTick | rebase
  | snapshot | restore => exact (if_neg Instr.noConfusion).symm

section Reports
variable {p : Params} {u : TimerUnit} {i : Instr}

/-- R150 for one command at its clock: update, body, re-arm, report. -/
def Reports (p : Params) (u : TimerUnit) (i : Instr) : Prop :=
  ∃ value, completionOf i u p =
    (bodyOf p i (TimerUnit.advance { u with armed := armedBefore u i } i.clockField)).finish value

theorem reports_of_clocked (hclk : i.clockField ≤ p.clkLimit) (harmed : armedBefore u i = u.armed)
    (value : TimerUnit → Arg) (h : completionOf i u p = clocked p i.clockField (bodyOf p i) value u) :
    Reports p u i :=
  ⟨value, by rw [h, harmed, clocked_legal u _ value hclk]⟩

theorem ackAlarmUnit_legal {clk : Nat} (hclk : clk ≤ p.clkLimit) :
    ackAlarmUnit p clk u = (TimerUnit.advance { u with armed := none } clk).finish noValue :=
  withLegalClock_legal u (fun v => (TimerUnit.advance { v with armed := none } clk).finish noValue) hclk

theorem ackAlarmUnit_illegal {clk : Nat} (hclk : p.clkLimit < clk) : ackAlarmUnit p clk u = abort .clkRange u :=
  withLegalClock_illegal u _ hclk

/-- R150, R157, R170, R171: every command that updates does so in the shape of R150 once its operands are legal. -/
theorem reports_of_updates (hi : i.updates = true) (hop : i.operandFault = none) (hclk : i.clockField ≤ p.clkLimit) :
    Reports p u i := by
  cases i with
  | advance | setLatchLo | setLatchHi | cascadeTick => exact reports_of_clocked hclk rfl noValue rfl
  | snapshot => exact reports_of_clocked hclk rfl TimerUnit.record rfl
  | setControl clk data =>
    have hdata : controlMalformed data = false := by simpa [Instr.operandFault] using hop
    exact reports_of_clocked hclk rfl noValue (setControlUnit_wellFormed hdata clk)
  | ackAlarm clk => exact ⟨noValue, ackAlarmUnit_legal hclk⟩
  | regRead clk rs =>
    cases rs with
    | countLo | countHi | latchLo | latchHi | control => exact reports_of_clocked hclk rfl _ rfl
    | reserved5 | reserved6 | reserved7 => exact absurd hop (Option.some_ne_none _)
  | regWrite clk rs data =>
    cases rs with
    | latchLo | latchHi => exact reports_of_clocked hclk rfl noValue rfl
    | control =>
      have hdata : controlMalformed data = false := by
        simpa [Instr.operandFault, RegSelect.isReserved] using hop
      exact reports_of_clocked hclk rfl noValue (setControlUnit_wellFormed hdata clk)
    | countLo | countHi => exact absurd hi Bool.false_ne_true
    | reserved5 | reserved6 | reserved7 => exact absurd hop (Option.some_ne_none _)
  | reset | valueAt | rebase | restore => exact absurd hi Bool.false_ne_true

end Reports

-- ---------------------------------------------------------------- what a body adds to the report

theorem TimerState.cascaded_running (S : TimerState) (k : Nat) :
    (S.cascaded k).running = (S.running && !S.cascadeStops k) := by
  rcases Bool.eq_false_or_eq_true (S.cascadeStops k) with h | h
  · rw [cascaded_of_stops h, h, Bool.not_true, Bool.and_false]
    rfl
  · rw [cascaded_of_counts h, h, Bool.not_false, Bool.and_true]
    rfl

/-- `x` leaves the registration of `w` and sets `os` beside it exactly where it stops the running timer (R150, R158). -/
structure Progress.ReportsOn (w x : Progress) : Prop where
  armed : x.unit.armed = w.unit.armed
  os : x.os = (w.os || (w.unit.current.running && !x.unit.current.running))

theorem Progress.ReportsOn.of_running {w x : Progress} (harmed : x.unit.armed = w.unit.armed)
    (hrun : x.unit.current.running = w.unit.current.running) (hos : x.os = w.os) : w.ReportsOn x :=
  ⟨harmed, by rw [hrun, hos, Bool.and_not_self, Bool.or_false]⟩

theorem Progress.writeControl_reportsOn (p : Params) (c : Control) (w : Progress) :
    w.ReportsOn (w.writeControl p c) := by
  rcases w.writeControl_cases p c with e | ⟨b, e⟩
  · rw [e]
    exact .of_running rfl rfl rfl
  · rw [e]
    exact .of_running rfl rfl rfl

theorem Progress.siblingTicks_reportsOn (k : Nat) (w : Progress) : w.ReportsOn (w.siblingTicks k) := by
  rcases w.siblingTicks_cases k with e | ⟨hdriven, _, e⟩
  · rw [e]
    exact .of_running rfl rfl rfl
  · obtain ⟨hrun, _⟩ := (TimerState.cascadeDriven_iff _).mp hdriven
    rw [e]
    refine ⟨rfl, ?_⟩
    rw [TimerUnit.rederive_current, TimerState.cascaded_running, hrun, Bool.true_and, Bool.true_and, Bool.not_not]

theorem bodyOf_reportsOn (p : Params) (i : Instr) (w : Progress) : w.ReportsOn (bodyOf p i w) := by
  rcases bodyOf_cases p i with ⟨newlatch, e⟩ | ⟨c, e⟩ | ⟨k, e⟩ | e
  · rw [e]
    exact .of_running rfl rfl rfl
  · rw [e]
    exact w.writeControl_reportsOn p c
  · rw [e]
    exact w.siblingTicks_reportsOn k
  · rw [e]
    exact .of_running rfl rfl rfl

theorem Progress.writeControl_n (p : Params) (c : Control) (w : Progress) : (w.writeControl p c).n = w.n := by
  rcases w.writeControl_cases p c with e | ⟨b, e⟩
  · rw [e, Progress.raise_n]
  · rw [e]

/-- R158: only sibling ticks count beside the update. -/
theorem bodyOf_n (p : Params) {i : Instr} (hi : ∀ k, i ≠ .cascadeTick i.clockField k) (w : Progress) :
    (bodyOf p i w).n = w.n := by
  cases i with
  | cascadeTick clk k => exact absurd rfl (hi k)
  | setControl clk data => exact w.writeControl_n p _
  | regWrite clk rs data =>
    cases rs with
    | control => exact w.writeControl_n p _
    | countLo | countHi | latchLo | latchHi | reserved5 | reserved6 | reserved7 => rfl
  | reset | advance | valueAt | setLatchLo | setLatchHi | ackAlarm | regRead | rebase | snapshot | restore => rfl

-- ---------------------------------------------------------------- latch writes

/-- R153: a latch write leaves the cached prediction, so it changes the latch and a stopped timer's count alone. -/
theorem TimerState.withLatch_eq {S : TimerState} (hS : S.Predicted) (L : Half) :
    S.withLatch L = { S with latch := L, count := if S.running then S.count else L } := by
  have hpred : (S.withLatch L).pred = S.pred := by
    rcases Bool.eq_false_or_eq_true S.phiDriven with h | h
    · exact withLatch_pred hS h L
    · exact (prediction_of_not_phiDriven (S := S.withLatch L) h).trans (hS.trans (prediction_of_not_phiDriven h)).symm
  rw [← hpred]
  rfl

/-- R151 to R153 for both bytes: a command whose body is a latch write, in clock order. -/
theorem exec_writeLatch {i : Instr} {s : State} {clk : Nat} (newlatch : Half → Half) (hs : s.Inv)
    (hlu : s.unit.lastUpdate ≤ clk) (hclk : clk ≤ Config.params.clkLimit)
    (hi : completionOf i s.unit = clocked Config.params clk (Progress.writeLatch newlatch) noValue s.unit) :
    ∃ t, exec i s = .next t ∧
      t.unit.current =
        { (s.unit.advance clk).unit.current with
          latch := newlatch (s.unit.advance clk).unit.current.latch
          count := if (s.unit.advance clk).unit.current.running then (s.unit.advance clk).unit.current.count
            else newlatch (s.unit.advance clk).unit.current.latch } ∧
      (∀ E ∈ t.unit.pending, E.latch = t.unit.current.latch) ∧
      t.unit.pending.map (fun E => (E.basis, E.control)) =
        (s.unit.advance clk).unit.pending.map (fun E => (E.basis, E.control)) ∧
      t.unit.lastUpdate = clk ∧ t.unit.armed = t.unit.target ∧ t.unit.fault = s.unit.fault ∧
      t.commands = s.commands ∧ t.result = some { fault := 0, n := (s.unit.advance clk).n, value := 0 } := by
  have hpred : (s.unit.advance clk).unit.current.Predicted := (hs.sound.advance clk).current_predicted
  rw [exec_eq_complete, hi, clocked_legal _ _ _ hclk]
  rw [TimerUnit.advance_forward hlu] at hpred ⊢
  exact ⟨_, rfl, TimerState.withLatch_eq hpred _, rederiveAbove_latch _ _, rederiveAbove_keeps_changes _ _, rfl, rfl,
    rfl, rfl, rfl⟩

-- ---------------------------------------------------------------- control writes

theorem controlMalformed_of_and_eq_zero {data : Byte} (h : data &&& 0xF0 = 0) : controlMalformed data = false := by
  revert data
  decide

/-- R155, R225: in clock order a control write of this hardware finds room for its push. -/
theorem TimerUnit.Sound.writeControl_pushes {u : TimerUnit} (h : u.Sound Config.params) {clk : Nat}
    (hlu : u.lastUpdate ≤ clk) (c : Control) :
    (u.advance clk).writeControl Config.params c =
      { u.advance clk with
        unit := (u.advance clk).unit.push (clk + latency Config.params (u.advance clk).unit.top.running c) c } := by
  have hlat := (latency_bounds params_legal (u.advance clk).unit.top.running c).2
  have hfits := (h.advance clk).not_pushOverflows (Nat.add_le_add_left hlat _)
  rw [Progress.writeControl_fits hfits, advance_lastUpdate_forward hlu]

/-- R154, R155: a well-formed control write in clock order, as a whole command. -/
theorem exec_setControl {s : State} {clk : Nat} {data : Byte} (hs : s.Inv) (hlu : s.unit.lastUpdate ≤ clk)
    (hclk : clk ≤ Config.params.clkLimit) (hdata : controlMalformed data = false) :
    exec (.setControl clk data) s = .next (s.complete (Progress.finish
      { s.unit.advance clk with
        unit := (s.unit.advance clk).unit.push
          (clk + latency Config.params (s.unit.advance clk).unit.top.running (decodeControl data))
          (decodeControl data) } noValue)) := by
  have hunit : completionOf (.setControl clk data) s.unit =
      clocked Config.params clk (Progress.writeControl Config.params (decodeControl data)) noValue s.unit :=
    setControlUnit_wellFormed hdata clk
  rw [exec_eq_complete, hunit, clocked_legal _ _ _ hclk, hs.sound.writeControl_pushes hlu]

/-- R154: a control write that raises nothing had a well-formed byte. -/
theorem controlMalformed_of_no_fault {s t : State} {clk : Nat} {data : Byte}
    (h : exec (.setControl clk data) s = .next t) (hraised : t.raisedBits = 0) : controlMalformed data = false := by
  rw [exec_eq_complete] at h
  cases h
  rcases Bool.eq_false_or_eq_true (controlMalformed data) with hbad | hgood
  · have hunit : completionOf (.setControl clk data) s.unit = abort .badCtrl s.unit := if_pos hbad
    rw [hunit] at hraised
    have hbit : FaultKind.badCtrl.bit = 0 := hraised
    exact absurd hbit (by decide)
  · exact hgood

-- ---------------------------------------------------------------- a stack before the effective clock of a push

theorem governing_append_of_lt {q : Nat} {k : List TimerState} (h : ∀ E ∈ k, q < E.basis) (S : TimerState)
    (l : List TimerState) : governing q S (l ++ k) = governing q S l := by
  induction l generalizing S with
  | nil => exact governing_of_lt h S
  | cons E l ih =>
    rw [List.cons_append, governing, governing, ih]

/-- The entries a push to `b` discards govern no clock before `b`. -/
theorem governing_filter_of_lt {q b : Nat} (hq : q < b) (S : TimerState) {l : List TimerState} (hl : Rising l) :
    governing q S (l.filter fun E => E.basis < b) = governing q S l := by
  induction l generalizing S with
  | nil => rfl
  | cons E l ih =>
    rcases Nat.lt_or_ge q E.basis with hE | hE
    · have hlater := hl.all_coming hE
      rw [governing_of_lt hlater, governing_of_lt fun F hF => hlater F (List.mem_filter.mp hF).1]
    · rw [List.filter_cons_of_pos (by simpa using hE.trans_lt hq), governing_cons_of_le hE,
        governing_cons_of_le hE, ih E hl.of_cons]

/-- R121, R155: a push changes nothing of what is in force before its effective clock. -/
theorem TimerUnit.governing_push {u : TimerUnit} {q b : Nat} (h : Rising u.pending) (hq : q < b) (c : Control) :
    governing q (u.push b c).current (u.push b c).pending = governing q u.current u.pending := by
  rw [push_pending h, push_current, governing_append_of_lt (by simpa using hq), governing_filter_of_lt hq _ h]

/-- R140: what an update counts and leaves in force depends on the stack through the entries that govern its clocks. -/
theorem TimerUnit.Sound.advanceTo_congr {p : Params} {u v : TimerUnit} (hu : u.Sound p) (hv : v.Sound p) {q : Nat}
    (hq : u.lastUpdate ≤ q) (hlu : v.lastUpdate = u.lastUpdate)
    (hgov : ∀ x ≤ q, governing x v.current v.pending = governing x u.current u.pending) :
    (v.advanceTo q).unit.current = (u.advanceTo q).unit.current ∧ (v.advanceTo q).n = (u.advanceTo q).n ∧
      (v.advanceTo q).os = (u.advanceTo q).os := by
  refine ⟨?_, ?_, ?_⟩
  · rw [hu.advanceTo_current, hv.advanceTo_current, hgov q le_rfl]
  · rw [hu.advanceTo_n_eq_card hq, hv.advanceTo_n_eq_card (hlu ▸ hq), hlu]
    refine congrArg Finset.card (Finset.filter_congr fun x hx => ?_)
    rw [instantOfHistory, instantOfHistory, hgov x (Finset.mem_Ioc.mp hx).2]
  · rw [Bool.eq_iff_iff, hu.advanceTo_os_iff, hv.advanceTo_os_iff, hlu]
    exact exists_window_congr fun x _ hx => by rw [hgov x hx]

/-- R155: until its effective clock a pushed change is invisible to updates, in what they count and leave in force. -/
theorem TimerUnit.Sound.advance_push_rearm {p : Params} {u : TimerUnit} (h : u.Sound p) {q b : Nat}
    (hq : u.lastUpdate ≤ q) (hqb : q < b) (hlat : b ≤ u.lastUpdate + p.latRestart) (c : Control) :
    ((u.push b c).rearm.advance q).unit.current = (u.advance q).unit.current ∧
      ((u.push b c).rearm.advance q).n = (u.advance q).n ∧ ((u.push b c).rearm.advance q).os = (u.advance q).os := by
  have hpushed : (u.push b c).rearm.Sound p := (h.push (hq.trans_lt hqb) hlat c).congr rfl rfl rfl
  rw [advance_forward (u := (u.push b c).rearm) hq, advance_forward hq]
  exact h.advanceTo_congr hpushed hq rfl fun x hx => governing_push h.rising (hx.trans_lt hqb) c

-- ---------------------------------------------------------------- the acknowledged alarm

/-- R157: with no registration a `SCHEDULE` is sent for every target that is no `NEVER`. -/
theorem TimerUnit.rearmMessages_unarmed (u : TimerUnit) :
    TimerUnit.rearmMessages { u with armed := none } = u.target.toList.map fun x => .schedule (some x) := by
  have hmessages : TimerUnit.rearmMessages { u with armed := none } =
      if u.target = none then [] else [.schedule u.target] := rfl
  rw [hmessages]
  rcases u.target with _ | x
  · rfl
  · rfl

-- ---------------------------------------------------------------- sibling ticks

/-- R158: sibling ticks change count and running flag of an entry alone. -/
theorem TimerState.cascaded_eq {S : TimerState} (hS : S.Predicted) (hcas : S.cascade = true) (k : Nat) :
    S.cascaded k = { S with count := (S.cascaded k).count, running := (S.cascaded k).running } := by
  have hpred : (S.cascaded k).pred = S.pred :=
    (prediction_of_not_phiDriven (cascaded_not_phiDriven hcas k)).trans
      (hS.trans (prediction_of_not_phiDriven (not_phiDriven_of_cascade hcas))).symm
  rw [← hpred]
  unfold cascaded
  split
  · rfl
  · rfl

theorem Progress.siblingTicks_current {w : Progress} (h : w.unit.current.Predicted) (k : Nat) :
    (w.siblingTicks k).unit.current =
      { w.unit.current with
        count := (w.siblingTicks k).unit.current.count
        running := (w.siblingTicks k).unit.current.running } := by
  rcases w.siblingTicks_cases k with e | ⟨hdriven, _, e⟩
  · rw [e]
  · rw [e]
    exact TimerState.cascaded_eq h ((TimerState.cascadeDriven_iff _).mp hdriven).2 k

theorem Progress.siblingTicks_dropped {w : Progress} (h : w.unit.current.cascadeDriven = false) (k : Nat) :
    w.siblingTicks k = w := by
  rcases w.siblingTicks_cases k with e | ⟨hdriven, _⟩
  · exact e
  · exact absurd (h.symm.trans hdriven) Bool.false_ne_true

/-- What sibling ticks leave beside the entry in force and its count of underflows. -/
theorem Progress.siblingTicks_frame (k : Nat) (w : Progress) :
    changesOf (w.siblingTicks k).unit.pending = changesOf w.unit.pending ∧
      (w.siblingTicks k).unit.lastUpdate = w.unit.lastUpdate ∧ (w.siblingTicks k).unit.fault = w.unit.fault ∧
      (w.siblingTicks k).raised = w.raised := by
  rcases w.siblingTicks_cases k with e | ⟨_, _, e⟩
  · rw [e]
    exact ⟨rfl, rfl, rfl, rfl⟩
  · rw [e]
    exact ⟨rederiveAbove_keeps_changes _ _, rfl, rfl, rfl⟩

/-- R158: the entry in force after `k` sibling ticks shows count and running flag of a machine that ticked `k` times. -/
theorem Progress.siblingTicks_current_of_tracks {w : Progress} {r : RefMachine} (h : w.unit.Sound Config.params)
    (hd : ¬ w.unit.DeadOneShot) (ht : w.unit.Tracks r) (k : Nat) :
    (w.siblingTicks k).unit.current =
      { w.unit.current with
        count := if r.run && r.cas then (RefMachine.siblingTicks k r).count else w.unit.current.count
        running := (RefMachine.siblingTicks k r).run } := by
  obtain ⟨hshows, _⟩ := TimerUnit.tracks_iff.mp ht
  obtain ⟨hticked, _⟩ := Progress.siblingTicks_matches k w r h hd ht
  obtain ⟨hticked, _⟩ := TimerUnit.tracks_iff.mp hticked
  have hdriven : (r.run && r.cas) = w.unit.current.cascadeDriven := by
    rw [hshows.run, hshows.cas]
    rfl
  have hcurrent := siblingTicks_current h.current_predicted k
  rw [hcurrent, hticked.run, hticked.count, hdriven]
  rcases Bool.eq_false_or_eq_true w.unit.current.cascadeDriven with hcas | hcas
  · have hidle : (w.siblingTicks k).unit.current.phiDriven = false := by
      rw [hcurrent]
      exact TimerState.not_phiDriven_of_cascade ((TimerState.cascadeDriven_iff _).mp hcas).2
    rw [if_pos hcas, TimerState.valueAt_idle hidle]
  · rw [hcas, if_neg Bool.false_ne_true, siblingTicks_dropped hcas]

end Sys2Proof.Machine

namespace Sys2Proof
open Machine

/-- Settles O29: the body keeps the registration the update found, and sets `os` where it stops the timer. -/
theorem clockedCommandsRearmAndReport : Obligations.ClockedCommandsRearmAndReport := by
  intro i s t hi hop hclk h
  obtain ⟨value, e⟩ := reports_of_updates (p := Config.params) (u := s.unit) hi hop hclk
  rw [exec_eq_complete, e, TimerUnit.advance_withArmed] at h
  cases h
  have hbody := bodyOf_reportsOn Config.params i
    { s.unit.advance i.clockField with
      unit := { (s.unit.advance i.clockField).unit with armed := armedBefore s.unit i } }
  refine ⟨rfl, ?_, _, rfl, fun hcas => bodyOf_n _ hcas _, ?_⟩
  · exact (bodyOf_lastUpdate _ i _).trans (s.unit.advance_lastUpdate i.clockField)
  · rw [← armedBefore_eq, State.complete_messages, Progress.finish_messages, hbody.os, TimerUnit.rearmMessages,
      hbody.armed]
    rfl

/-- Settles O30: both bytes are one latch write. -/
theorem latchWritesMirrorWhileStopped : Obligations.LatchWritesMirrorWhileStopped :=
  fun _ data _ hs hlu hclk =>
    ⟨exec_writeLatch (withLowByte · data) hs hlu hclk rfl, exec_writeLatch (withHighByte · data) hs hlu hclk rfl⟩

/-- Settles O31: at the latencies of this hardware the push finds room. -/
theorem controlWritePushesAtItsLatency : Obligations.ControlWritePushesAtItsLatency := by
  intro clk data s hs hlu hclk hdata
  have hexec := exec_setControl hs hlu hclk (controlMalformed_of_and_eq_zero hdata)
  have hrising := (hs.sound.advance clk).rising
  refine ⟨_, _, hexec, rfl, ?_, rfl, ?_⟩
  · rw [← TimerUnit.push_pending hrising]
    rfl
  · rw [TimerUnit.advance_forward hlu]
    rfl

/-- Settles O32: the entries that govern the clocks before the effective clock are those without the write. -/
theorem countsIgnoreControlWriteUntilItsLatency : Obligations.CountsIgnoreControlWriteUntilItsLatency := by
  intro clk q data s t hs hlu hclk h hraised hclkq hq
  rw [exec_setControl hs hlu hclk (controlMalformed_of_no_fault h hraised)] at h
  cases h
  have hlast := TimerUnit.advance_lastUpdate_forward hlu
  have hlat := (latency_bounds params_legal (s.unit.advance clk).unit.top.running (decodeControl data)).2
  obtain ⟨hcurrent, hn, hos⟩ := (hs.sound.advance clk).advance_push_rearm (hlast.le.trans hclkq) hq
    (hlast.symm ▸ Nat.add_le_add_left hlat clk) (decodeControl data)
  exact ⟨hcurrent, congrArg (·.valueAt q) hcurrent, hn, hos⟩

/-- Settles O34: the body is the machine's `k` sibling ticks, in what it shows and what it counts. -/
theorem cascadeTickIsRepeatedSiblingTicks : Obligations.CascadeTickIsRepeatedSiblingTicks := by
  intro clk k s r hs hlu hclk ht
  have hsound := hs.sound.advance clk
  have hd : ¬ (s.unit.advance clk).unit.DeadOneShot := by
    rw [TimerUnit.advance_forward hlu]
    exact hs.sound.advanceTo_not_dead clk
  have hunit : completionOf (.cascadeTick clk k) s.unit =
      ((s.unit.advance clk).siblingTicks k.toNat).finish noValue := clocked_legal _ _ _ hclk
  obtain ⟨hchanges, hlast, hfault, hraised⟩ := (s.unit.advance clk).siblingTicks_frame k.toNat
  obtain ⟨_, hev, _⟩ := Progress.siblingTicks_matches k.toNat _ _ hsound hd ht
  rw [exec_eq_complete, hunit]
  refine ⟨_, rfl, Progress.siblingTicks_current_of_tracks hsound hd ht k.toNat, hchanges,
    hlast.trans (TimerUnit.advance_lastUpdate_forward hlu), rfl, hfault.trans ?_, rfl, _, rfl, hraised.trans ?_, rfl, ?_⟩
  · rw [TimerUnit.advance_forward hlu, TimerUnit.advanceTo_fault]
  · rw [TimerUnit.advance_forward hlu, TimerUnit.advanceTo_raised]
  · rw [Progress.finish_n]
    omega

/-- Settles O33: the update finds `AAC` at `NEVER`, so only a target that is no `NEVER` is sent. -/
theorem ackAlarmCountsAndRearms : Obligations.AckAlarmCountsAndRearms := by
  intro clk s
  refine ⟨fun hclk => ?_, fun hclk => ?_⟩
  · have hunit : completionOf (.ackAlarm clk) s.unit = abort .clkRange s.unit :=
      ackAlarmUnit_illegal hclk
    rw [exec_eq_complete, hunit]
    rfl
  · have hunit : completionOf (.ackAlarm clk) s.unit =
        (TimerUnit.advance { s.unit with armed := none } clk).finish noValue := ackAlarmUnit_legal hclk
    rw [exec_eq_complete, hunit, TimerUnit.advance_withArmed]
    refine congrArg Host.Outcome.next ((State.mk.injEq ..).mpr ⟨rfl, rfl, rfl, ?_⟩)
    refine congrArg (underflowMessages _ _ ++ ·) (((s.unit.advance clk).unit.rearmMessages_unarmed).trans ?_)
    rcases (s.unit.advance clk).unit.target with _ | x
    · rfl
    · rfl

end Sys2Proof
end

section
/-! SUPPORT. The register interface (`44_register_interface.md` R170 to R172): what `REG_READ` and `REG_WRITE` do by the
class of the select, and that an update after a re-armed update to the same clock has nothing left to do. -/

namespace Sys2Proof.Machine

-- ---------------------------------------------------------------- what a register shows

/-- R170: no register shows `AAC`. -/
theorem TimerUnit.registerByte_rearm (v : TimerUnit) (rs : RegSelect) :
    v.rearm.registerByte rs = v.registerByte rs := by cases rs <;> rfl

/-- R88: the mode byte is the sum of the weights of its flags. -/
theorem TimerState.modeByte_eq_ofNat (S : TimerState) :
    S.modeByte = BitVec.ofNat 8 (S.running.toNat + 2 * S.oneShot.toNat + 8 * S.cascade.toNat) := by
  rw [modeByte]
  generalize S.running = running, S.oneShot = oneShot, S.cascade = cascade
  revert running oneShot cascade
  decide

-- ---------------------------------------------------------------- REG_READ and REG_WRITE by the class of the select

section Selects
variable {p : Params} {clk : Nat} {rs : RegSelect} {u : TimerUnit}

theorem regReadUnit_reserved (h : rs.isReserved = true) : regReadUnit p clk rs u = abort .illOp u := by
  cases rs with
  | reserved5 | reserved6 | reserved7 => rfl
  | countLo | countHi | latchLo | latchHi | control => exact absurd h Bool.false_ne_true

theorem regReadUnit_eq_readRegister (h : rs.isReserved = false) : regReadUnit p clk rs u = readRegister p clk rs u := by
  cases rs with
  | countLo | countHi | latchLo | latchHi | control => rfl
  | reserved5 | reserved6 | reserved7 => exact absurd h.symm Bool.false_ne_true

theorem regReadUnit_illegal (h : rs.isReserved = false) (hclk : p.clkLimit < clk) :
    regReadUnit p clk rs u = abort .clkRange u :=
  (regReadUnit_eq_readRegister h).trans (clocked_illegal _ _ hclk)

theorem regReadUnit_legal (h : rs.isReserved = false) (hclk : clk ≤ p.clkLimit) :
    regReadUnit p clk rs u = (u.advance clk).finish fun v => ((v.registerByte rs).getD 0).setWidth 40 :=
  (regReadUnit_eq_readRegister h).trans (clocked_legal u _ _ hclk)

theorem regWriteUnit_reserved (h : rs.isReserved = true) (data : Byte) :
    regWriteUnit p clk rs data u = abort .illOp u := by
  cases rs with
  | reserved5 | reserved6 | reserved7 => rfl
  | countLo | countHi | latchLo | latchHi | control => exact absurd h Bool.false_ne_true

/-- R171: the count registers are read-only. -/
theorem regWriteUnit_count (h : rs.isCount = true) (data : Byte) :
    regWriteUnit p clk rs data u = dropWrite p clk u := by
  cases rs with
  | countLo | countHi => rfl
  | latchLo | latchHi | control | reserved5 | reserved6 | reserved7 => exact absurd h Bool.false_ne_true

theorem dropWrite_legal (hclk : clk ≤ p.clkLimit) :
    dropWrite p clk u = { unit := u, result := { fault := 0, n := 0, value := 0 }, messages := [] } :=
  withLegalClock_legal u _ hclk

theorem dropWrite_illegal (hclk : p.clkLimit < clk) : dropWrite p clk u = abort .clkRange u :=
  withLegalClock_illegal u _ hclk

theorem exec_regRead (clk : Nat) (rs : RegSelect) (s : State) {c : Completion}
    (h : regReadUnit Config.params clk rs s.unit = c) : exec (.regRead clk rs) s = .next (s.complete c) :=
  h ▸ exec_eq_complete s (.regRead clk rs)

theorem exec_regWrite (clk : Nat) (rs : RegSelect) (data : Byte) (s : State) {c : Completion}
    (h : regWriteUnit Config.params clk rs data s.unit = c) : exec (.regWrite clk rs data) s = .next (s.complete c) :=
  h ▸ exec_eq_complete s (.regWrite clk rs data)

end Selects

-- ---------------------------------------------------------------- the second update of a repeated read

/-- R147(a), R202: after an update and its re-arm, an update to the same clock leaves the unit and counts nothing. -/
theorem TimerUnit.Sound.advance_rearm_again {p : Params} {u : TimerUnit} (h : u.Sound p) {T : Nat}
    (hT : u.lastUpdate ≤ T) :
    (u.advance T).unit.rearm.advance T =
      { unit := (u.advance T).unit.rearm, n := 0, os := false, raised := 0 } := by
  rw [TimerUnit.rearm, TimerUnit.advance_withArmed, TimerUnit.advance_forward hT,
    TimerUnit.advance_forward (by exact le_rfl), h.advanceTo_twice hT]

/-- R202: a unit just re-armed has nothing to send. -/
@[simp] theorem TimerUnit.rearm_rearmMessages (u : TimerUnit) : u.rearm.rearmMessages = [] := if_pos rfl

/-- R150, steps 4 and 5: the report of a command that found its unit updated and re-armed. -/
theorem Progress.finish_rearmed (u : TimerUnit) (value : TimerUnit → Arg) :
    Progress.finish { unit := u.rearm, n := 0, os := false, raised := 0 } value =
      { unit := u.rearm, result := { fault := 0, n := 0, value := value u.rearm }, messages := [] } := by
  rw [Progress.finish, TimerUnit.rearm_rearmMessages]
  rfl

end Sys2Proof.Machine

namespace Sys2Proof
open Machine

/-- Settles O37: the first read leaves a unit whose update to the same clock does nothing, and no register shows the
re-armed `AAC`. -/
theorem repeatedReadChangesNothing : Obligations.RepeatedReadChangesNothing := by
  intro clk rs s t hs hlu hclk hrs hread
  rw [exec_regRead clk rs s (regReadUnit_legal hrs hclk)] at hread
  cases hread
  refine ⟨_, rfl, ?_⟩
  rw [exec_regRead clk rs _ (regReadUnit_legal hrs hclk), State.complete_unit, Progress.finish_unit,
    hs.sound.advance_rearm_again hlu, Progress.finish_rearmed, TimerUnit.registerByte_rearm]
  have hraised : (s.unit.advance clk).raised = 0 := by rw [TimerUnit.advance_forward hlu, TimerUnit.advanceTo_raised]
  simp only [State.complete, Progress.finish, hraised]

/-- Settles O35: the select is checked before the clock, and every other read is one update with its register's byte. -/
theorem registerReadReturnsTheLiveByte : Obligations.RegisterReadReturnsTheLiveByte := by
  intro clk rs s
  refine ⟨fun hrs => exec_regRead clk rs s (regReadUnit_reserved hrs),
    fun hrs hclk => exec_regRead clk rs s (regReadUnit_illegal hrs hclk), fun hrs hclk =>
      ⟨((s.unit.advance clk).unit.registerByte rs).getD 0, exec_regRead clk rs s (regReadUnit_legal hrs hclk),
        ?countLo, ?countHi, ?latchLo, ?latchHi, ?control⟩⟩
  case countLo | countHi | latchLo | latchHi =>
    rintro rfl
    rfl
  case control =>
    rintro rfl
    exact TimerState.modeByte_eq_ofNat _

/-- Settles O36: every select is a dropped write, a refused one, or its Control Protocol command by definition. -/
theorem registerWriteIsTheControlProtocol : Obligations.RegisterWriteIsTheControlProtocol := by
  intro clk rs data s
  refine ⟨fun hrs hclk => ?_, fun hrs hclk => ?_, fun hrs => ?_, rfl, rfl, rfl⟩
  · exact exec_regWrite clk rs data s ((regWriteUnit_count hrs data).trans (dropWrite_legal hclk))
  · exact exec_regWrite clk rs data s ((regWriteUnit_count hrs data).trans (dropWrite_illegal hclk))
  · exact exec_regWrite clk rs data s (regWriteUnit_reserved hrs data)

end Sys2Proof
end

section
/-! SUPPORT. Two units side by side, one with every clock lowered by `K` (`45_maintenance.md` R181): every operation at
a clock lowered by `K` answers the same and leaves the lowered unit. -/

namespace Sys2Proof.Machine

-- ---------------------------------------------------------------- a timer and its stack

section Lowered
variable {S : TimerState} {K : Nat} {l : List TimerState}

@[simp] theorem TimerState.rebased_modeByte (S : TimerState) (K : Nat) : (S.rebased K).modeByte = S.modeByte := rfl

/-- R102 compares the ends of its interval with `pred` only. -/
theorem TimerState.cnt_rebased (hP : ∀ P, S.pred = some P → K ≤ P) {lo hi : Nat} (hlo : K ≤ lo) (hhi : K ≤ hi) :
    (S.rebased K).cnt (lo - K) (hi - K) = S.cnt lo hi := by
  rcases Bool.eq_false_or_eq_true S.phiDriven with h | h
  · have h' : (S.rebased K).phiDriven = true := h
    rcases hpred : S.pred with _ | P
    · simp [cnt, hpred]
    · have hKP := hP P hpred
      have hpred' : (S.rebased K).pred = some (P - K) := by simp [hpred]
      have hbefore : lo - K < P - K ↔ lo < P := by omega
      rcases Nat.lt_or_ge hi P with hlt | hge
      · rw [cnt_early hpred hlt, cnt_early hpred' (by omega)]
      · rcases Bool.eq_false_or_eq_true S.oneShot with ho | ho
        · rw [cnt_oneShot h ho hpred hge, cnt_oneShot h' ho hpred' (by omega)]
          simp only [hbefore]
        · rw [cnt_continuous h ho hpred hge, cnt_continuous h' ho hpred' (by omega), rebased_period,
            show hi - K - (P - K) = hi - P by omega, show lo - K - (P - K) = lo - P by omega]
          simp only [hbefore]
  · have h' : (S.rebased K).phiDriven = false := h
    rw [cnt_idle h, cnt_idle h']

/-- A projection to a clock of at least `K` keeps the basis at least `K`. -/
theorem TimerState.le_proj_basis (hS : S.Predicted) (hK : K ≤ S.basis) {t : Nat} (ht : K ≤ t) :
    K ≤ (S.proj t).basis := by
  rcases proj_cases hS t with ⟨_, e⟩ | ⟨_, _, _, e⟩ | ⟨_, _, _, e⟩ | ⟨_, _, _, r, e, _, _, m, hm⟩
  · rwa [e]
  · rwa [e]
  · rwa [e]
  · rw [e]
    change K ≤ r
    omega

theorem newest_rebased (S : TimerState) (l : List TimerState) (K : Nat) :
    newest (S.rebased K) (l.map (·.rebased K)) = (newest S l).rebased K := by
  induction l generalizing S with
  | nil => rfl
  | cons E l ih => exact ih E

theorem TimerUnit.top_rebased (u : TimerUnit) (K : Nat) : (u.rebased K).top = u.top.rebased K :=
  newest_rebased u.current u.pending K

theorem Rising.rebased (hl : Rising l) (hK : ∀ E ∈ l, K ≤ E.basis) : Rising (l.map (·.rebased K)) :=
  List.pairwise_map.mpr (hl.imp_of_mem fun hE _ hlt => Nat.sub_lt_sub_right (hK _ hE) hlt)

/-- R121: the discards of a push compare bases with the new one. -/
theorem keepBefore_rebased (hl : Rising l) (hK : ∀ E ∈ l, K ≤ E.basis) (b : Nat) :
    keepBefore (b - K) (l.map (·.rebased K)) = (keepBefore b l).map (·.rebased K) := by
  rw [keepBefore_eq_filter _ (hl.rebased hK), keepBefore_eq_filter b hl, List.filter_map]
  refine congrArg _ (List.filter_congr fun E hE => ?_)
  have := hK E hE
  have hiff : E.basis - K < b - K ↔ E.basis < b := by omega
  exact decide_eq_decide.mpr hiff

/-- R122: `rederive()` goes from basis to basis, so it goes along with all of them lowered. -/
theorem rederiveAbove_map_rebased (hS : S.Predicted) (hK : K ≤ S.basis) (hl : Rising (S :: l)) :
    rederiveAbove (S.rebased K) (l.map (·.rebased K)) = (rederiveAbove S l).map (·.rebased K) := by
  induction l generalizing S with
  | nil => rfl
  | cons E l ih =>
    have hSE : S.basis < E.basis := List.rel_of_pairwise_cons hl (List.mem_cons_self ..)
    have hrising : Rising (S.derive E.basis E.control :: l) := List.pairwise_cons.mpr (List.pairwise_cons.mp hl.of_cons)
    rw [List.map_cons, rederiveAbove_cons, rederiveAbove_cons, List.map_cons, TimerState.rebased_basis,
      TimerState.rebased_control, TimerState.derive_rebased hS hK hSE.le,
      ih (TimerState.derive_predicted ..) (hK.trans hSE.le) hrising]

/-- R201: the instant of the loop lies after its clock. -/
theorem TimerState.lt_nextInstant {lo x : Nat} (h : S.nextInstant lo = some x) : lo < x := by
  rcases Bool.eq_false_or_eq_true S.phiDriven with hphi | hphi
  · rcases hP : S.pred with _ | P
    · simp [nextInstant, hP] at h
    · rcases Nat.lt_or_ge lo P with hlt | hge
      · rw [nextInstant_future hphi hP hlt, Option.some.injEq] at h
        exact h ▸ hlt
      · rcases Bool.eq_false_or_eq_true S.oneShot with ho | ho
        · rw [nextInstant_stopped hphi ho hP hge] at h
          exact absurd h.symm (Option.some_ne_none x)
        · rw [nextInstant_reloaded hphi ho hP hge, Option.some.injEq, Nat.add_mul, Nat.one_mul] at h
          have := Nat.lt_div_mul_add S.period_pos (a := lo - P)
          omega
  · rw [nextInstant_idle lo hphi] at h
    exact absurd h.symm (Option.some_ne_none x)

theorem le_targetFrom {lo x : Nat} (hlo : K ≤ lo) (hl : ∀ E ∈ l, K < E.basis) (h : targetFrom lo S l = some x) :
    K ≤ x := by
  induction l generalizing lo S with
  | nil => exact hlo.trans (TimerState.lt_nextInstant h).le
  | cons E l ih =>
    have hnext : targetFrom (E.basis - 1) E l = some x → K ≤ x :=
      ih (Nat.le_sub_one_of_lt (hl E (List.mem_cons_self ..))) fun F hF => hl F (List.mem_cons_of_mem _ hF)
    rw [targetFrom_cons] at h
    split at h
    · exact hnext h
    · rename_i y hy
      split at h
      · cases h
        exact hlo.trans (TimerState.lt_nextInstant hy).le
      · exact hnext h

/-- The result of the `while` loop of R142 with its clocks lowered by `K`. -/
def Collapsed.rebased (r : Collapsed) (K : Nat) : Collapsed :=
  { r with current := r.current.rebased K, pending := r.pending.map (·.rebased K), lo := r.lo - K }

/-- R142: the loop compares the bases with its clock, and counts between clocks of at least `K`. -/
theorem collapse_rebased {T lo : Nat} (hS : ∀ X ∈ S :: l, X.Predicted) (hK : K ≤ S.basis) (hl : ∀ E ∈ l, K < E.basis)
    (hlo : K ≤ lo) (hT : K ≤ T) :
    collapse (T - K) (lo - K) (S.rebased K) (l.map (·.rebased K)) = (collapse T lo S l).rebased K ∧
      K ≤ (collapse T lo S l).lo := by
  induction l generalizing lo S with
  | nil => exact ⟨rfl, hlo⟩
  | cons E l ih =>
    have hE : K < E.basis := hl E (List.mem_cons_self ..)
    rcases Nat.lt_or_ge T E.basis with h | h
    · have h' : T - K < (E.rebased K).basis := Nat.sub_lt_sub_right hT h
      rw [List.map_cons, collapse_stops _ _ _ h, collapse_stops _ _ _ h']
      exact ⟨rfl, hlo⟩
    · have h' : (E.rebased K).basis ≤ T - K := Nat.sub_le_sub_right h K
      have hpred := TimerState.le_pred (hS S (List.mem_cons_self ..)) hK
      have hend : (E.rebased K).basis - 1 = E.basis - 1 - K := Nat.sub_right_comm ..
      obtain ⟨hrest, hlo'⟩ := ih (lo := E.basis - 1) (fun X hX => hS X (List.mem_cons_of_mem _ hX)) hE.le
        (fun F hF => hl F (List.mem_cons_of_mem _ hF)) (Nat.le_sub_one_of_lt hE)
      rw [List.map_cons, collapse_folds _ _ _ h, collapse_folds _ _ _ h', hend,
        TimerState.cnt_rebased hpred hlo (Nat.le_sub_one_of_lt hE), hrest]
      exact ⟨rfl, hlo'⟩

end Lowered

-- ---------------------------------------------------------------- the operations on a unit

/-- A sound unit that a rebase by `K` leaves with its clocks in order: no stored clock lies below `K`. -/
structure TimerUnit.CanRebase (p : Params) (K : Nat) (u : TimerUnit) : Prop where
  sound : u.Sound p
  le_basis : K ≤ u.current.basis
  le_armed : ∀ x, u.armed = some x → K ≤ x

section Units
variable {p : Params} {u : TimerUnit} {K : Nat}

theorem TimerUnit.CanRebase.le_lastUpdate (h : u.CanRebase p K) : K ≤ u.lastUpdate :=
  h.le_basis.trans h.sound.current_basis_le

theorem TimerUnit.CanRebase.lt_pending_basis (h : u.CanRebase p K) : ∀ E ∈ u.pending, K < E.basis := fun _ hE =>
  h.le_lastUpdate.trans_lt (h.sound.lt_basis hE)

theorem TimerUnit.CanRebase.le_stack_basis (h : u.CanRebase p K) : ∀ X ∈ u.stack, K ≤ X.basis := fun X hX => by
  rcases List.mem_cons.mp hX with rfl | hX
  · exact h.le_basis
  · exact (h.lt_pending_basis X hX).le

/-- R201: an alarm lies after `LU`, so a rebase loses none. -/
theorem TimerUnit.Sound.le_target (h : u.Sound p) (hK : K ≤ u.current.basis) {x : Nat} (hx : u.target = some x) :
    K ≤ x := by
  have hlu := hK.trans h.current_basis_le
  exact le_targetFrom hlu (fun _ hE => hlu.trans_lt (h.lt_basis hE)) hx

theorem TimerUnit.Inv.canRebase (h : u.Inv p) (hK : K ≤ u.current.basis) : u.CanRebase p K where
  sound := h.sound
  le_basis := hK
  le_armed _ hx := h.sound.le_target hK (h.armed_eq.symm.trans hx)

/-- Another registration that no rebase by `K` loses. -/
theorem TimerUnit.CanRebase.withArmed (h : u.CanRebase p K) {a : Deadline} (ha : ∀ x, a = some x → K ≤ x) :
    TimerUnit.CanRebase p K { u with armed := a } := ⟨h.sound.congr rfl rfl rfl, h.le_basis, ha⟩

theorem TimerUnit.CanRebase.rearm_rebased (h : u.CanRebase p K) : (u.rebased K).rearm = u.rearm.rebased K := by
  rw [TimerUnit.rearm, h.sound.target_rebased h.le_basis]
  rfl

/-- Clocks of at least `K` are equal exactly when they are after the rebase. -/
theorem deadline_lowered_inj {a b : Deadline} (ha : ∀ x, a = some x → K ≤ x) (hb : ∀ x, b = some x → K ≤ x) :
    a.map (· - K) = b.map (· - K) ↔ a = b := by
  rcases a with _ | x
  · cases b <;> simp
  · rcases b with _ | y
    · simp
    · have := ha x rfl
      have := hb y rfl
      simp only [Option.map_some, Option.some.injEq]
      omega

theorem TimerUnit.CanRebase.rearmMessages_rebased (h : u.CanRebase p K) :
    (u.rebased K).rearmMessages = u.rearmMessages.map (Message.rebased K) := by
  have hiff := deadline_lowered_inj (fun _ => h.sound.le_target h.le_basis) h.le_armed
  unfold TimerUnit.rearmMessages
  rw [h.sound.target_rebased h.le_basis, rebased_armed]
  simp only [hiff]
  split
  · rfl
  · rfl

theorem underflowMessages_rebased (n : Nat) (os : Bool) (K : Nat) :
    (underflowMessages n os).map (Message.rebased K) = underflowMessages n os := by
  unfold underflowMessages
  split
  · rfl
  · rfl

/-- R122: another current entry with its clocks lowered, and the pending entries derived again. -/
theorem TimerUnit.CanRebase.replaceCurrent_rebased (h : u.CanRebase p K) {S : TimerState} (hS : S.Predicted)
    (hbasis : S.basis = u.current.basis) :
    TimerUnit.rederive { u.rebased K with current := S.rebased K } =
      (TimerUnit.rederive { u with current := S }).rebased K := by
  have hrising : Rising (S :: u.pending) := List.pairwise_cons.mpr
    ⟨fun E hE => hbasis.trans_lt (h.sound.current_basis_le.trans_lt (h.sound.lt_basis hE)), h.sound.rising⟩
  rw [TimerUnit.rederive, rebased_pending, rederiveAbove_map_rebased hS (hbasis ▸ h.le_basis) hrising]
  rfl

theorem TimerUnit.CanRebase.pushOverflows_rebased (h : u.CanRebase p K) (b : Nat) :
    (u.rebased K).pushOverflows (b - K) = u.pushOverflows b := by
  rw [TimerUnit.pushOverflows, rebased_pending,
    keepBefore_rebased h.sound.rising (fun E hE => (h.lt_pending_basis E hE).le), List.length_map,
    TimerUnit.pushOverflows]

/-- R121: a push to a clock not before `LU`. -/
theorem TimerUnit.CanRebase.push_rebased (h : u.CanRebase p K) {b : Nat} (hb : u.lastUpdate ≤ b) (c : Control) :
    (u.rebased K).push (b - K) c = (u.push b c).rebased K := by
  have hkept : ∀ X ∈ u.current :: keepBefore b u.pending, X ∈ u.stack ∧ X.basis ≤ b := fun X hX => by
    rcases List.mem_cons.mp hX with rfl | hX
    · exact ⟨List.mem_cons_self .., h.sound.current_basis_le.trans hb⟩
    · have hmem : X ∈ u.pending ∧ X.basis < b := by simpa [keepBefore_eq_filter b h.sound.rising] using hX
      exact ⟨List.mem_cons_of_mem _ hmem.1, hmem.2.le⟩
  obtain ⟨hmem, hle⟩ := hkept _ (newest_mem u.current (keepBefore b u.pending))
  have hderive := TimerState.derive_rebased (h.sound.predicted _ hmem) (h.le_stack_basis _ hmem) hle c
  unfold TimerUnit.push
  dsimp only
  rw [rebased_pending, rebased_current,
    keepBefore_rebased h.sound.rising (fun E hE => (h.lt_pending_basis E hE).le), newest_rebased, hderive]
  simp [TimerUnit.rebased]

/-- A command under way with every clock of its unit lowered by `K`. -/
def Progress.rebased (w : Progress) (K : Nat) : Progress := { w with unit := w.unit.rebased K }

@[simp] theorem Progress.rebased_unit (w : Progress) (K : Nat) : (w.rebased K).unit = w.unit.rebased K := rfl

/-- R140, R142 to R145 with the clock lowered. -/
theorem TimerUnit.CanRebase.advanceTo_rebased (h : u.CanRebase p K) {T : Nat} (hT : u.lastUpdate ≤ T) :
    (u.rebased K).advanceTo (T - K) = (u.advanceTo T).rebased K := by
  have hKT := h.le_lastUpdate.trans hT
  obtain ⟨hcollapse, hlo⟩ := collapse_rebased h.sound.predicted h.le_basis h.lt_pending_basis h.le_lastUpdate hKT
  have hgoverns := governing_mem T u.current u.pending
  rw [← collapse_current T u.lastUpdate] at hgoverns
  have hpred := TimerState.le_pred (h.sound.predicted _ hgoverns) (h.le_stack_basis _ hgoverns)
  unfold TimerUnit.advanceTo
  dsimp only
  rw [rebased_lastUpdate, rebased_current, rebased_pending, hcollapse]
  simp only [Collapsed.rebased, TimerState.cnt_rebased hpred hlo hKT, TimerState.proj_rebased hpred hKT,
    TimerState.rebased_oneShot]
  rfl

theorem TimerUnit.CanRebase.advanceTo (h : u.CanRebase p K) {T : Nat} (hT : u.lastUpdate ≤ T) :
    (u.advanceTo T).unit.CanRebase p K := by
  have hgoverns := governing_mem T u.current u.pending
  refine ⟨h.sound.advanceTo hT, ?_, h.le_armed⟩
  rw [h.sound.advanceTo_current]
  exact TimerState.le_proj_basis (h.sound.predicted _ hgoverns) (h.le_stack_basis _ hgoverns) (h.le_lastUpdate.trans hT)

theorem TimerUnit.CanRebase.raise (h : u.CanRebase p K) (k : FaultKind) : (u.raise k).CanRebase p K :=
  ⟨h.sound.congr rfl rfl rfl, h.le_basis, h.le_armed⟩

theorem TimerUnit.CanRebase.advance (h : u.CanRebase p K) (T : Nat) : (u.advance T).unit.CanRebase p K := by
  rcases u.advance_cases T with ⟨hT, e⟩ | ⟨_, e⟩
  · rw [e]
    exact h.advanceTo hT
  · rw [e]
    exact (h.advanceTo le_rfl).raise .regress

/-- R141: the lowered clock regresses exactly where the clock does. -/
theorem TimerUnit.CanRebase.advance_rebased (h : u.CanRebase p K) {T : Nat} (hT : K ≤ T) :
    (u.rebased K).advance (T - K) = (u.advance T).rebased K := by
  rcases u.advance_cases T with ⟨hle, e⟩ | ⟨hlt, e⟩
  · rw [e, TimerUnit.advance_forward (Nat.sub_le_sub_right hle K), h.advanceTo_rebased hle]
  · rw [e, TimerUnit.advance_regress (Nat.sub_lt_sub_right hT hlt), rebased_lastUpdate, h.advanceTo_rebased le_rfl]
    rfl

/-- The data a command returns is no clock, so a rebase leaves it. -/
def RebaseKeepsValue (p : Params) (K : Nat) (value : TimerUnit → Arg) : Prop :=
  ∀ u : TimerUnit, u.CanRebase p K → value (u.rebased K) = value u

theorem noValue_rebased (p : Params) (K : Nat) : RebaseKeepsValue p K noValue := fun _ _ => rfl

theorem TimerUnit.CanRebase.valueAt_rebased (h : u.CanRebase p K) {q : Nat} (hq : K ≤ q) :
    (u.current.rebased K).valueAt (q - K) = u.current.valueAt q :=
  TimerState.valueAt_rebased (TimerState.le_pred h.sound.current_predicted h.le_basis) hq

theorem TimerUnit.CanRebase.registerByte_rebased (h : u.CanRebase p K) (rs : RegSelect) :
    (u.rebased K).registerByte rs = u.registerByte rs := by
  cases rs with
  | countLo => exact congrArg (some <| lowByte ·) (h.valueAt_rebased h.le_lastUpdate)
  | countHi => exact congrArg (some <| highByte ·) (h.valueAt_rebased h.le_lastUpdate)
  | latchLo | latchHi | reserved5 | reserved6 | reserved7 => rfl
  | control => rw [registerByte, top_rebased, TimerState.rebased_modeByte, registerByte]

theorem record_rebased (p : Params) (K : Nat) : RebaseKeepsValue p K TimerUnit.record := fun u h =>
  congrArg (packSnapshot u.current ·) (h.valueAt_rebased h.le_lastUpdate)

end Units

-- ---------------------------------------------------------------- the bodies of the commands

/-- The body of a clocked command goes along with every clock lowered by `K`, and leaves no clock below `K`. -/
def Progress.BodyRebases (p : Params) (K : Nat) (body : Progress → Progress) : Prop :=
  ∀ w : Progress, w.unit.CanRebase p K → (body w).unit.CanRebase p K ∧ body (w.rebased K) = (body w).rebased K

theorem Progress.id_rebases (p : Params) (K : Nat) : Progress.BodyRebases p K id := fun _ h => ⟨h, rfl⟩

theorem TimerState.withLatch_rebased {S : TimerState} {K : Nat} (hK : K ≤ S.basis) (L : Half) :
    (S.rebased K).withLatch L = (S.withLatch L).rebased K :=
  mkpred_rebased { S with latch := L, count := if S.running then S.count else L } hK

theorem Progress.writeLatch_rebases (p : Params) (K : Nat) (newlatch : Half → Half) :
    Progress.BodyRebases p K (Progress.writeLatch newlatch) := fun w h => by
  refine ⟨⟨(Progress.writeLatch_keepsSound p newlatch w h.sound).1, h.le_basis, h.le_armed⟩, ?_⟩
  have hreplace := h.replaceCurrent_rebased
    (TimerState.withLatch_predicted w.unit.current (newlatch w.unit.current.latch)) rfl
  rw [← TimerState.withLatch_rebased h.le_basis] at hreplace
  exact congrArg (Progress.mk · _ _ _) hreplace

theorem Progress.writeControl_rebases {p : Params} (hp : p.legal = true) (K : Nat) (c : Control) :
    Progress.BodyRebases p K (Progress.writeControl p c) := fun w h => by
  have hsound := (Progress.writeControl_keepsSound hp c w h.sound).1
  have hbasis : (w.unit.rebased K).lastUpdate + latency p (w.unit.rebased K).top.running c =
      w.unit.lastUpdate + latency p w.unit.top.running c - K := by
    rw [TimerUnit.top_rebased]
    exact (Nat.sub_add_comm h.le_lastUpdate).symm
  have hoverflows := h.pushOverflows_rebased (w.unit.lastUpdate + latency p w.unit.top.running c)
  rw [← hbasis] at hoverflows
  rcases Bool.eq_false_or_eq_true (w.unit.pushOverflows (w.unit.lastUpdate + latency p w.unit.top.running c)) with
    hfull | hfits
  · rw [Progress.writeControl_full hfull, Progress.writeControl_full (hoverflows.trans hfull)]
    exact ⟨h.raise .stkOvf, rfl⟩
  · rw [Progress.writeControl_fits hfits] at hsound ⊢
    rw [Progress.writeControl_fits (hoverflows.trans hfits), Progress.rebased_unit, hbasis,
      h.push_rebased (Nat.le_add_right _ _)]
    exact ⟨⟨hsound, h.le_basis, h.le_armed⟩, rfl⟩

theorem TimerState.cascaded_rebased {S : TimerState} {K : Nat} (hK : K ≤ S.basis) (k : Nat) :
    (S.rebased K).cascaded k = (S.cascaded k).rebased K := by
  rcases Bool.eq_false_or_eq_true (S.cascadeStops k) with hs | hs
  · have hs' : (S.rebased K).cascadeStops k = true := hs
    rw [cascaded_of_stops hs, cascaded_of_stops hs']
    exact mkpred_rebased { S with count := 0, running := false } hK
  · have hs' : (S.rebased K).cascadeStops k = false := hs
    rw [cascaded_of_counts hs, cascaded_of_counts hs']
    exact mkpred_rebased { S with count := BitVec.ofNat 16 (cascadeCount S.latch.toNat S.count.toNat k) } hK

theorem Progress.siblingTicks_rebases (p : Params) (K k : Nat) :
    Progress.BodyRebases p K (Progress.siblingTicks k) := fun w h => by
  have hsound := (Progress.siblingTicks_keepsSound p k w h.sound).1
  have hdriven : (w.rebased K).unit.current.cascadeDriven = w.unit.current.cascadeDriven := rfl
  have hbasis := w.unit.current.cascaded_basis k
  unfold Progress.siblingTicks at hsound ⊢
  dsimp only at hsound ⊢
  rw [hdriven]
  split
  · rename_i hticks
    rw [if_pos hticks] at hsound
    refine ⟨⟨hsound, hbasis.symm ▸ h.le_basis, h.le_armed⟩, ?_⟩
    have hreplace := h.replaceCurrent_rebased (TimerState.cascaded_predicted w.unit.current k) hbasis
    rw [← TimerState.cascaded_rebased h.le_basis] at hreplace
    exact congrArg (Progress.mk · _ _ _) hreplace
  · exact ⟨h, rfl⟩

-- ---------------------------------------------------------------- the shapes of a command

/-- A completion with every clock of its unit and every target it sends lowered by `K`. -/
def Completion.rebased (c : Completion) (K : Nat) : Completion :=
  { c with unit := c.unit.rebased K, messages := c.messages.map (Message.rebased K) }

theorem State.complete_rebased (s : State) (c : Completion) (K : Nat) :
    (s.rebased K).complete (c.rebased K) = (s.complete c).rebased K := rfl

theorem abort_rebased (k : FaultKind) (u : TimerUnit) (K : Nat) :
    abort k (u.rebased K) = (abort k u).rebased K := rfl

section Shapes
variable {p : Params} {u : TimerUnit} {K clk : Nat}

/-- R221: a clock that is lowered stays legal. -/
theorem withLegalClock_rebased {run run' : TimerUnit → Completion} (hclk : clk ≤ p.clkLimit)
    (hrun : run' (u.rebased K) = (run u).rebased K) :
    withLegalClock p (clk - K) (u.rebased K) run' = (withLegalClock p clk u run).rebased K := by
  rw [withLegalClock_legal _ _ hclk, withLegalClock_legal _ _ ((Nat.sub_le _ _).trans hclk), hrun]

theorem Progress.finish_rebased {w : Progress} (h : w.unit.CanRebase p K) {value : TimerUnit → Arg}
    (hvalue : RebaseKeepsValue p K value) : (w.rebased K).finish value = (w.finish value).rebased K := by
  unfold Progress.finish
  rw [Progress.rebased_unit, h.rearm_rebased, hvalue _ h, h.rearmMessages_rebased, Completion.rebased,
    List.map_append, underflowMessages_rebased]
  rfl

theorem TimerUnit.CanRebase.update_body_finish_rebased (h : u.CanRebase p K) {body : Progress → Progress}
    (hbody : Progress.BodyRebases p K body) {value : TimerUnit → Arg} (hvalue : RebaseKeepsValue p K value)
    (hK : K ≤ clk) :
    (body ((u.rebased K).advance (clk - K))).finish value = ((body (u.advance clk)).finish value).rebased K := by
  obtain ⟨hafter, hcommutes⟩ := hbody _ (h.advance clk)
  rw [h.advance_rebased hK, hcommutes, Progress.finish_rebased hafter hvalue]

theorem TimerUnit.CanRebase.clocked_rebased (h : u.CanRebase p K) {body : Progress → Progress}
    (hbody : Progress.BodyRebases p K body) {value : TimerUnit → Arg} (hvalue : RebaseKeepsValue p K value)
    (hK : K ≤ clk) (hclk : clk ≤ p.clkLimit) :
    clocked p (clk - K) body value (u.rebased K) = (clocked p clk body value u).rebased K :=
  withLegalClock_rebased hclk (h.update_body_finish_rebased hbody hvalue hK)

/-- R180, R183, R203: a unit seated anew at a clock of at least `K`. -/
theorem finishForced_rebased {S : TimerState} (hS : S.Predicted) (hK : K ≤ S.basis) (f : FaultBits) :
    TimerUnit.finishForced
        { current := S.rebased K, pending := [], lastUpdate := S.basis - K, armed := none, fault := f } =
      (TimerUnit.finishForced
        { current := S, pending := [], lastUpdate := S.basis, armed := none, fault := f }).rebased K := by
  have hsound : TimerUnit.Sound {} { current := S, pending := [], lastUpdate := S.basis, armed := none, fault := f } :=
    TimerUnit.sound_single hS none f
  have htarget := hsound.target_rebased hK
  unfold TimerUnit.finishForced TimerUnit.rearm
  exact htarget ▸ rfl

end Shapes

-- ---------------------------------------------------------------- the commands

section Commands
variable {p : Params} {u : TimerUnit} {K clk : Nat} (h : u.CanRebase p K) (hK : K ≤ clk) (hclk : clk ≤ p.clkLimit)

include hK hclk

theorem resetUnit_rebased (u : TimerUnit) : resetUnit p (clk - K) (u.rebased K) = (resetUnit p clk u).rebased K :=
  withLegalClock_rebased hclk (finishForced_rebased (S := TimerState.atReset clk) rfl hK u.fault)

theorem restoreUnit_rebased (u : TimerUnit) (snap : Arg) :
    restoreUnit p (clk - K) snap (u.rebased K) = (restoreUnit p clk snap u).rebased K := by
  have hentry : TimerState.ofRecord (clk - K) snap = (TimerState.ofRecord clk snap).rebased K :=
    TimerState.mkpred_rebased { TimerState.ofRecord clk snap with pred := none } hK
  unfold restoreUnit
  split
  · exact abort_rebased .badSnap u K
  · refine withLegalClock_rebased hclk ?_
    rw [hentry]
    exact finishForced_rebased (S := TimerState.ofRecord clk snap) rfl hK u.fault

omit hK in
theorem dropWrite_rebased (u : TimerUnit) : dropWrite p (clk - K) (u.rebased K) = (dropWrite p clk u).rebased K :=
  withLegalClock_rebased hclk rfl

include h

theorem TimerUnit.CanRebase.valueAtUnit_rebased :
    valueAtUnit p (clk - K) (u.rebased K) = (valueAtUnit p clk u).rebased K := by
  have hiff : clk - K = (u.rebased K).lastUpdate ↔ clk = u.lastUpdate := by
    have := h.le_lastUpdate
    rw [rebased_lastUpdate]
    omega
  refine withLegalClock_rebased hclk ?_
  simp only [hiff, rebased_current, h.valueAt_rebased hK]
  split
  · rfl
  · exact abort_rebased .stale u K

theorem TimerUnit.CanRebase.setControlUnit_rebased (hp : p.legal = true) (data : Byte) :
    setControlUnit p (clk - K) data (u.rebased K) = (setControlUnit p clk data u).rebased K := by
  unfold setControlUnit
  split
  · exact abort_rebased .badCtrl u K
  · exact h.clocked_rebased (Progress.writeControl_rebases hp K _) (noValue_rebased p K) hK hclk

theorem TimerUnit.CanRebase.writeLatch_rebased (newlatch : Half → Half) :
    clocked p (clk - K) (Progress.writeLatch newlatch) noValue (u.rebased K) =
      (clocked p clk (Progress.writeLatch newlatch) noValue u).rebased K :=
  h.clocked_rebased (Progress.writeLatch_rebases p K newlatch) (noValue_rebased p K) hK hclk

theorem TimerUnit.CanRebase.ackAlarmUnit_rebased :
    ackAlarmUnit p (clk - K) (u.rebased K) = (ackAlarmUnit p clk u).rebased K :=
  withLegalClock_rebased hclk
    ((h.withArmed (a := none) fun x hx => absurd hx.symm (Option.some_ne_none x)).update_body_finish_rebased
      (Progress.id_rebases p K) (noValue_rebased p K) hK)

theorem TimerUnit.CanRebase.regReadUnit_rebased (rs : RegSelect) :
    regReadUnit p (clk - K) rs (u.rebased K) = (regReadUnit p clk rs u).rebased K := by
  have hread : ∀ r, readRegister p (clk - K) r (u.rebased K) = (readRegister p clk r u).rebased K := fun r =>
    h.clocked_rebased (Progress.id_rebases p K) (fun v hv => by rw [hv.registerByte_rebased]) hK hclk
  cases rs with
  | countLo | countHi | latchLo | latchHi | control => exact hread _
  | reserved5 | reserved6 | reserved7 => exact abort_rebased .illOp u K

theorem TimerUnit.CanRebase.regWriteUnit_rebased (hp : p.legal = true) (rs : RegSelect) (data : Byte) :
    regWriteUnit p (clk - K) rs data (u.rebased K) = (regWriteUnit p clk rs data u).rebased K := by
  cases rs with
  | countLo | countHi => exact dropWrite_rebased hclk u
  | latchLo | latchHi => exact h.writeLatch_rebased hK hclk _
  | control => exact h.setControlUnit_rebased hK hclk hp data
  | reserved5 | reserved6 | reserved7 => exact abort_rebased .illOp u K

end Commands

/-- R181: every command but `REBASE` goes along with every clock lowered by `K`, its own included. -/
theorem TimerUnit.CanRebase.completionOf_rebased {p : Params} {u : TimerUnit} {K : Nat} (h : u.CanRebase p K)
    (hp : p.legal = true) {i : Instr} (hi : i.isRebase = false) (hK : K ≤ i.clockField)
    (hclk : i.clockField ≤ p.clkLimit) :
    completionOf (i.lowered K) (u.rebased K) p = (completionOf i u p).rebased K := by
  cases i with
  | reset clk => exact resetUnit_rebased hK hclk u
  | advance clk => exact h.clocked_rebased (Progress.id_rebases p K) (noValue_rebased p K) hK hclk
  | valueAt clk => exact h.valueAtUnit_rebased hK hclk
  | setLatchLo clk data => exact h.writeLatch_rebased hK hclk _
  | setLatchHi clk data => exact h.writeLatch_rebased hK hclk _
  | setControl clk data => exact h.setControlUnit_rebased hK hclk hp data
  | ackAlarm clk => exact h.ackAlarmUnit_rebased hK hclk
  | regRead clk rs => exact h.regReadUnit_rebased hK hclk rs
  | regWrite clk rs data => exact h.regWriteUnit_rebased hK hclk hp rs data
  | cascadeTick clk n =>
    exact h.clocked_rebased (Progress.siblingTicks_rebases p K _) (noValue_rebased p K) hK hclk
  | rebase k => exact absurd hi.symm Bool.false_ne_true
  | snapshot clk => exact h.clocked_rebased (Progress.id_rebases p K) (record_rebased p K) hK hclk
  | restore clk snap => exact restoreUnit_rebased hK hclk u snap

end Sys2Proof.Machine

namespace Sys2Proof
open Machine

/-- Settles O40: update, body and report of every command go along with every clock lowered by `K`. -/
theorem rebaseIsTransparent : Obligations.RebaseIsTransparent := by
  intro K i s t hs hbasis hi hK hclk h
  rw [exec_eq_complete] at h ⊢
  cases h
  have hlowered := (hs.canRebase hbasis).completionOf_rebased params_legal hi hK hclk
  rw [State.rebased_unit, hlowered, State.complete_rebased]

end Sys2Proof
end

section
/-! SUPPORT. The maintenance commands (`45_maintenance.md` R180 to R183): what a rebase lowers, the fields of a snapshot
record, the alarm of a restored entry, and a record restored at the clock it was taken at. -/

namespace Sys2Proof.Machine

theorem exec_eq_of_completionOf {i : Instr} {s : State} {c : Completion} (h : completionOf i s.unit = c) :
    exec i s = .next (s.complete c) := h ▸ exec_eq_complete s i

-- ---------------------------------------------------------------- REBASE

theorem rebaseUnit_legal {u : TimerUnit} {K : Nat} (h : K ≤ u.current.basis) :
    rebaseUnit K u = { unit := u.rebased K, result := { fault := 0, n := 0, value := 0 }, messages := [] } :=
  if_neg (Nat.not_lt.mpr h)

theorem rebaseUnit_illegal {u : TimerUnit} {K : Nat} (h : u.current.basis < K) : rebaseUnit K u = abort .clkRange u :=
  if_pos h

/-- R275: the basis of the current entry lies at most 65535 ticks before `LU`, a count in flight. -/
theorem TimerUnit.Sound.lastUpdate_le_basis {p : Params} {u : TimerUnit} (h : u.Sound p) :
    u.lastUpdate ≤ u.current.basis + 65535 := by
  obtain ⟨_, hphi, hidle⟩ := h.settled
  rcases Bool.eq_false_or_eq_true u.current.phiDriven with hdriven | hdriven
  · have := hphi hdriven
    have : u.current.count.toNat < 65536 := u.current.count.isLt
    omega
  · have := hidle hdriven
    omega

-- ---------------------------------------------------------------- RESET

theorem resetUnit_legal {p : Params} {clk : Nat} {u : TimerUnit} (h : clk ≤ p.clkLimit) :
    resetUnit p clk u =
      { unit :=
          { current := TimerState.atReset clk, pending := [], lastUpdate := clk, armed := none, fault := u.fault }
        result := { fault := 0, n := 0, value := 0 }, messages := [.schedule none] } := by
  rw [resetUnit, withLegalClock_legal u _ h]
  rfl

theorem resetUnit_illegal {p : Params} {clk : Nat} {u : TimerUnit} (h : p.clkLimit < clk) :
    resetUnit p clk u = abort .clkRange u := withLegalClock_illegal u _ h

-- ---------------------------------------------------------------- the fields of a record

theorem snapLatch_packSnapshot (S : TimerState) (count : Half) : snapLatch (packSnapshot S count) = S.latch :=
  BitVec.extractLsb'_append_eq_right

theorem snapCount_packSnapshot (S : TimerState) (count : Half) : snapCount (packSnapshot S count) = count :=
  (BitVec.extractLsb'_append_eq_of_le (le_refl 16)).trans BitVec.extractLsb'_append_eq_right

theorem snapMode_packSnapshot (S : TimerState) (count : Half) : snapMode (packSnapshot S count) = S.modeByte := by
  have hhigh : (packSnapshot S count).extractLsb' 32 8 = (S.modeByte ++ count).extractLsb' 16 8 :=
    BitVec.extractLsb'_append_eq_of_le (by decide)
  exact hhigh.trans BitVec.extractLsb'_append_eq_left

/-- R87: bits 39:32 of a record are its mode byte. -/
theorem getLsbD_snapMode (snap : Arg) {i : Nat} (hi : i < 8) : snap.getLsbD (32 + i) = (snapMode snap).getLsbD i := by
  rw [snapMode, BitVec.getLsbD_extractLsb', decide_eq_true hi, Bool.true_and]

theorem extractLsb'_snapMode (snap : Arg) : snap.extractLsb' 36 4 = (snapMode snap).extractLsb' 4 4 := by
  apply BitVec.eq_of_getLsbD_eq
  intro i hi
  rw [BitVec.getLsbD_extractLsb', BitVec.getLsbD_extractLsb', ← getLsbD_snapMode snap (by omega), ← Nat.add_assoc]

/-- R88: the bits of the mode byte. -/
theorem TimerState.modeByte_bits (S : TimerState) :
    S.modeByte.getLsbD 0 = S.running ∧ S.modeByte.getLsbD 1 = S.oneShot ∧ S.modeByte.getLsbD 2 = false ∧
      S.modeByte.getLsbD 3 = S.cascade ∧ S.modeByte.extractLsb' 4 4 = 0 := by
  rw [modeByte]
  generalize S.running = running, S.oneShot = oneShot, S.cascade = cascade
  revert running oneShot cascade
  decide

/-- R87, R88: where a record holds the modes of its entry. -/
theorem packSnapshot_modes (S : TimerState) (count : Half) :
    (packSnapshot S count).getLsbD 32 = S.running ∧ (packSnapshot S count).getLsbD 33 = S.oneShot ∧
      (packSnapshot S count).getLsbD 34 = false ∧ (packSnapshot S count).getLsbD 35 = S.cascade ∧
      (packSnapshot S count).extractLsb' 36 4 = 0 := by
  have hbit : ∀ i < 8, (packSnapshot S count).getLsbD (32 + i) = S.modeByte.getLsbD i := fun i hi => by
    rw [getLsbD_snapMode _ hi, snapMode_packSnapshot]
  rw [hbit 0 (by decide), hbit 1 (by decide), hbit 2 (by decide), hbit 3 (by decide), extractLsb'_snapMode,
    snapMode_packSnapshot]
  exact S.modeByte_bits

theorem packSnapshot_wellFormed (S : TimerState) (count : Half) : snapshotMalformed (packSnapshot S count) = false := by
  obtain ⟨_, _, hbit, _, hhigh⟩ := packSnapshot_modes S count
  rw [snapshotMalformed, hbit, hhigh]
  rfl

/-- R87: a mask without ones in bits 31:0 leaves of a record what it leaves of the mode byte. -/
theorem snap_and_mask (snap : Arg) : snap &&& 0xF400000000 = (snapMode snap &&& 0xF4) ++ 0#32 := by
  have hsplit : snapMode snap ++ snap.extractLsb' 0 32 = snap := BitVec.extractLsb'_append_extractLsb' (w := 8)
  calc snap &&& 0xF400000000
    _ = (snapMode snap ++ snap.extractLsb' 0 32) &&& (0xF4#8 ++ 0#32) := by rw [hsplit]; rfl
    _ = (snapMode snap &&& 0xF4) ++ (snap.extractLsb' 0 32 &&& 0#32) := BitVec.and_append
    _ = (snapMode snap &&& 0xF4) ++ 0#32 := by rw [BitVec.and_zero]

theorem mode_append_zero_eq_zero_iff (m : Byte) : m ++ 0#32 = 0 ↔ m = 0 :=
  ⟨fun h => BitVec.extractLsb'_append_eq_left.symm.trans (congrArg (BitVec.extractLsb' 32 8) h), fun h => h ▸ rfl⟩

/-- R89(d): a record is malformed by bit 34 or bits 39:36, which all lie in its mode byte. -/
theorem snapshotMalformed_iff (snap : Arg) : snapshotMalformed snap = true ↔ snap &&& 0xF400000000 ≠ 0 := by
  have hmode : ∀ m : Byte, (m.getLsbD 2 || m.extractLsb' 4 4 != 0) = (m &&& 0xF4 != 0) := by decide
  have hbit : snap.getLsbD 34 = (snapMode snap).getLsbD 2 := getLsbD_snapMode snap (i := 2) (by decide)
  rw [snapshotMalformed, hbit, extractLsb'_snapMode, hmode, bne_iff_ne, snap_and_mask, ne_eq, ne_eq,
    mode_append_zero_eq_zero_iff]

-- ---------------------------------------------------------------- SNAPSHOT

theorem snapshotUnit_legal {p : Params} {clk : Nat} {u : TimerUnit} (h : clk ≤ p.clkLimit) :
    snapshotUnit p clk u = (u.advance clk).finish TimerUnit.record := clocked_legal u id TimerUnit.record h

-- ---------------------------------------------------------------- RESTORE

section Restore
variable {p : Params} {clk : Nat} {snap : Arg} {u : TimerUnit}

theorem restoreUnit_malformed (h : snapshotMalformed snap = true) : restoreUnit p clk snap u = abort .badSnap u :=
  if_pos h

theorem restoreUnit_illegal (h : snapshotMalformed snap = false) (hclk : p.clkLimit < clk) :
    restoreUnit p clk snap u = abort .clkRange u :=
  (if_neg (Bool.eq_false_iff.mp h)).trans (withLegalClock_illegal u _ hclk)

/-- R183: the unit of a restore, with the alarm of its one entry. -/
theorem restoreUnit_legal (h : snapshotMalformed snap = false) (hclk : clk ≤ p.clkLimit) :
    restoreUnit p clk snap u =
      { unit :=
          { current := TimerState.ofRecord clk snap, pending := [], lastUpdate := clk
            armed := (TimerState.ofRecord clk snap).nextInstant clk, fault := u.fault }
        result := { fault := 0, n := 0, value := 0 }
        messages := [.schedule ((TimerState.ofRecord clk snap).nextInstant clk)] } :=
  (if_neg (Bool.eq_false_iff.mp h)).trans (withLegalClock_legal u _ hclk)

end Restore

/-- R201 at the basis: the prediction, or a period later where the prediction is the basis itself. -/
theorem TimerState.nextInstant_basis {S : TimerState} (hS : S.Predicted) :
    S.nextInstant S.basis =
      if S.pred = some S.basis then (if S.oneShot then none else some (S.basis + S.latch.toNat + 1)) else S.pred := by
  rcases Bool.eq_false_or_eq_true S.phiDriven with h | h
  · have hP := hS.pred_eq h
    rcases Nat.eq_zero_or_pos S.count.toNat with hc | hc
    · rw [hc, Nat.add_zero] at hP
      rw [if_pos hP]
      rcases Bool.eq_false_or_eq_true S.oneShot with ho | ho
      · rw [nextInstant_stopped h ho hP le_rfl, if_pos ho]
      · rw [nextInstant_reloaded h ho hP le_rfl, if_neg (Bool.eq_false_iff.mp ho), Nat.sub_self, Nat.zero_div,
          Nat.zero_add, Nat.one_mul]
        rfl
    · have hne : S.pred ≠ some S.basis := by
        rw [hP, ne_eq, Option.some.injEq]
        omega
      rw [nextInstant_future h hP (Nat.lt_add_of_pos_right hc), if_neg hne, hP]
  · have hnone : S.pred = none := hS.trans (prediction_of_not_phiDriven h)
    rw [nextInstant_idle _ h, hnone, if_neg (Option.some_ne_none _).symm]

theorem TimerState.ofRecord_predicted (clk : Nat) (snap : Arg) : (TimerState.ofRecord clk snap).Predicted := rfl

-- ---------------------------------------------------------------- SNAPSHOT, then RESTORE

/-- R183: a settled entry comes back from its record with the instants it had. -/
theorem TimerState.ofRecord_packSnapshot_sameFuture {S : TimerState} (hS : S.Predicted) {clk : Nat}
    (hbasis : S.basis ≤ clk) (hclk : S.phiDriven = true → clk ≤ S.basis + S.count.toNat) :
    (TimerState.ofRecord clk (packSnapshot S (S.valueAt clk))).SameFuture S := by
  obtain ⟨hrun, hshot, _, hcas, _⟩ := packSnapshot_modes S (S.valueAt clk)
  have hcount : (TimerState.ofRecord clk (packSnapshot S (S.valueAt clk))).count = S.valueAt clk :=
    snapCount_packSnapshot S _
  have hdriven : (TimerState.ofRecord clk (packSnapshot S (S.valueAt clk))).phiDriven = S.phiDriven := by
    rw [phiDriven, ofRecord_running, ofRecord_cascade, hrun, hcas, phiDriven]
  have hS' := ofRecord_predicted clk (packSnapshot S (S.valueAt clk))
  refine ⟨?_, snapLatch_packSnapshot S _, hrun, hshot, hcas, fun h => ?_⟩
  · rcases Bool.eq_false_or_eq_true S.phiDriven with h | h
    · have hle := hclk h
      have hlt : S.count.toNat < 2 ^ 16 := S.count.isLt
      rw [hS'.pred_eq (hdriven.trans h), hS.pred_eq h, ofRecord_basis, hcount, valueAt_before h (hS.pred_eq h) hle,
        BitVec.toNat_ofNat, Nat.mod_eq_of_lt (by omega), Nat.add_sub_cancel' hle]
    · rw [hS'.trans (prediction_of_not_phiDriven (hdriven.trans h)), hS.trans (prediction_of_not_phiDriven h)]
  · rw [hcount, valueAt_idle (hdriven.symm.trans h)]

/-- R183, "Round-trip persistence", on units: with no entry pending a restore of the record at `LU`, on any unit, seats
a unit with the same future and registers its alarm. -/
theorem TimerUnit.Sound.restoreUnit_record {p : Params} {u : TimerUnit} (h : u.Sound p) (hpending : u.pending = [])
    (hclk : u.lastUpdate ≤ p.clkLimit) (v : TimerUnit) :
    ∃ w : TimerUnit, w.SameFuture u.rearm ∧
      restoreUnit p u.lastUpdate u.record v =
        { unit := w, result := { fault := 0, n := 0, value := 0 }, messages := [.schedule u.target] } := by
  obtain ⟨hbasis, hphi, _⟩ := h.settled
  have hcurrent := TimerState.ofRecord_packSnapshot_sameFuture h.current_predicted hbasis hphi
  have htarget : (TimerState.ofRecord u.lastUpdate u.record).nextInstant u.lastUpdate = u.target := by
    rw [TimerUnit.target, hpending]
    exact hcurrent.nextInstant u.lastUpdate
  have hunit := restoreUnit_legal (snap := u.record) (u := v) (packSnapshot_wellFormed _ _) hclk
  rw [htarget] at hunit
  refine ⟨_, ?_, hunit⟩
  exact ⟨hcurrent, hpending.symm, rfl, rfl⟩

end Sys2Proof.Machine

namespace Sys2Proof
open Machine

/-- Settles O39: the bound of R275 keeps `K` at or below the basis of the current entry. -/
theorem ownersRebaseBoundIsLegal : Obligations.OwnersRebaseBoundIsLegal := by
  intro K s hs hK
  have hbasis := hs.sound.lastUpdate_le_basis
  exact ⟨_, exec_eq_of_completionOf (i := .rebase K) (rebaseUnit_legal (by omega)), rfl, rfl⟩

/-- Settles O41: the record is packed from the updated unit, at the clock of the update. -/
theorem snapshotRecordsTheLiveEntry : Obligations.SnapshotRecordsTheLiveEntry := by
  intro clk s _ hlu hclk
  have hraised : (s.unit.advance clk).raised = 0 := by rw [TimerUnit.advance_forward hlu, TimerUnit.advanceTo_raised]
  have hlast := TimerUnit.advance_lastUpdate_forward hlu
  refine ⟨_, (s.unit.advance clk).unit.record, exec_eq_of_completionOf (i := .snapshot clk) (snapshotUnit_legal hclk),
    rfl, rfl, ?result, snapLatch_packSnapshot _ _, ?count, packSnapshot_modes _ _⟩
  case result => rw [State.complete_result, Progress.finish, hraised]
  case count => exact (snapCount_packSnapshot _ _).trans (congrArg _ hlast)

/-- Settles O42: the record is checked before the clock, and the alarm is that of the one entry at its basis. -/
theorem restoreBuildsOneEntry : Obligations.RestoreBuildsOneEntry := by
  intro clk snap s
  have hwellFormed : snap &&& 0xF400000000 = 0 → snapshotMalformed snap = false := fun h => by
    rw [Bool.eq_false_iff, ne_eq, snapshotMalformed_iff, not_not, h]
  refine ⟨fun h => ?_, fun h hclk => ?_, fun h hclk => ?_⟩
  · exact exec_eq_of_completionOf (i := .restore clk snap) (restoreUnit_malformed ((snapshotMalformed_iff snap).mpr h))
  · exact exec_eq_of_completionOf (i := .restore clk snap) (restoreUnit_illegal (hwellFormed h) hclk)
  · have htarget := TimerState.nextInstant_basis (TimerState.ofRecord_predicted clk snap)
    refine ⟨TimerState.ofRecord clk snap, _, rfl, htarget, ?_⟩
    exact exec_eq_of_completionOf (i := .restore clk snap) (restoreUnit_legal (hwellFormed h) hclk)

/-- Settles O43: with nothing pending the record holds all that the future of the unit depends on. -/
theorem snapshotThenRestoreKeepsTheFuture : Obligations.SnapshotThenRestoreKeepsTheFuture := by
  intro clk s s' t t' r hs hlu hclk hsnapshot hpending hr hrestore
  rw [exec_eq_of_completionOf (i := .snapshot clk) (snapshotUnit_legal hclk)] at hsnapshot
  cases hsnapshot
  cases hr
  have hlast := TimerUnit.advance_lastUpdate_forward hlu
  obtain ⟨w, hsame, hunit⟩ := (hs.sound.advance clk).restoreUnit_record hpending (hlast.trans_le hclk) s'.unit
  rw [hlast] at hunit
  rw [Progress.finish_value, exec_eq_of_completionOf (i := .restore clk _) hunit] at hrestore
  cases hrestore
  exact ⟨hsame, rfl, rfl⟩

/-- Settles O11: a reset entry is idle, so its alarm is `NEVER`. -/
theorem resetReseatsTheUnit : Obligations.ResetReseatsTheUnit := fun clk _ =>
  ⟨fun h => exec_eq_of_completionOf (i := .reset clk) (resetUnit_legal h),
    fun h => exec_eq_of_completionOf (i := .reset clk) (resetUnit_illegal h)⟩

/-- Settles O38: both cases are those of the check against the basis of the current entry. -/
theorem rebaseLowersEveryClock : Obligations.RebaseLowersEveryClock := fun K _ =>
  ⟨fun h => ⟨_, exec_eq_of_completionOf (i := .rebase K) (rebaseUnit_legal h), rfl, rfl, rfl, rfl, rfl, rfl, rfl⟩,
    fun h => exec_eq_of_completionOf (i := .rebase K) (rebaseUnit_illegal h)⟩

end Sys2Proof
end

section
/-! SUPPORT. The alarm scheduler (`46_alarm_scheduler.md` R201): the target is the first underflow instant of the history
after `LU`, so an update, like the ticks of the reference machine, counts nothing exactly up to before it. -/

namespace Sys2Proof.Machine

-- ---------------------------------------------------------------- the first clock with a property

/-- Clock `T` lies before the deadline; every clock lies before `NEVER`. -/
def IsBefore (T : Nat) (d : Deadline) : Prop := ∀ x, d = some x → T < x

@[simp] theorem isBefore_some {T x : Nat} : IsBefore T (some x) ↔ T < x :=
  ⟨fun h => h x rfl, fun h _ e => Option.some.inj e ▸ h⟩

@[simp] theorem isBefore_none (T : Nat) : IsBefore T none := fun x e => absurd e.symm (Option.some_ne_none x)

/-- `d` is the first clock after `lo` at which `Q` holds, `NEVER` where there is none. -/
structure FirstAfter (lo : Nat) (Q : Nat → Prop) (d : Deadline) : Prop where
  holds : ∀ x, d = some x → lo < x ∧ Q x
  not_before : ∀ y, lo < y → IsBefore y d → ¬ Q y

section First
variable {lo mid : Nat} {Q R : Nat → Prop} {d : Deadline}

theorem firstAfter_some {x : Nat} (hx : lo < x) (hQ : Q x) (hbefore : ∀ y, lo < y → y < x → ¬ Q y) :
    FirstAfter lo Q (some x) :=
  ⟨fun _ e => Option.some.inj e ▸ ⟨hx, hQ⟩, fun y hy hyx => hbefore y hy (isBefore_some.mp hyx)⟩

theorem firstAfter_none (h : ∀ y, lo < y → ¬ Q y) : FirstAfter lo Q none :=
  ⟨fun x e => absurd e.symm (Option.some_ne_none x), fun y hy _ => h y hy⟩

theorem FirstAfter.none_upTo_iff (h : FirstAfter lo Q d) (T : Nat) :
    (∀ y, lo < y → y ≤ T → ¬ Q y) ↔ IsBefore T d := by
  constructor
  · intro hnone x hx
    obtain ⟨hlo, hQ⟩ := h.holds x hx
    exact Nat.lt_of_not_le fun hle => hnone x hlo hle hQ
  · exact fun hT y hlo hy => h.not_before y hlo fun x hx => hy.trans_lt (hT x hx)

/-- A first clock inside a window depends on the window alone. -/
theorem FirstAfter.in_window {x : Nat} (h : FirstAfter lo Q (some x)) (hx : x ≤ mid)
    (hQ : ∀ y, lo < y → y ≤ mid → (Q y ↔ R y)) : FirstAfter lo R (some x) := by
  obtain ⟨hlo, hQx⟩ := h.holds x rfl
  refine firstAfter_some hlo ((hQ x hlo hx).mp hQx) fun y hy hyx hR => ?_
  exact h.not_before y hy (isBefore_some.mpr hyx) ((hQ y hy (hyx.le.trans hx)).mpr hR)

/-- Past a window without the property the search goes on at its end. -/
theorem FirstAfter.past_window (h : FirstAfter mid Q d) (hlo : lo ≤ mid) (hnone : ∀ y, lo < y → y ≤ mid → ¬ R y)
    (hQ : ∀ y, mid < y → (Q y ↔ R y)) : FirstAfter lo R d := by
  refine ⟨fun x hx => ?_, fun y hy hd hR => ?_⟩
  · obtain ⟨hmid, hQx⟩ := h.holds x hx
    exact ⟨hlo.trans_lt hmid, (hQ x hmid).mp hQx⟩
  · have hmid : mid < y := Nat.lt_of_not_le fun hle => hnone y hy hle hR
    exact h.not_before y hmid hd ((hQ y hmid).mpr hR)

end First

-- ---------------------------------------------------------------- the loop of R201

/-- No multiple of a period above `a` is smaller than the next one. -/
theorem next_multiple_le {a b L : Nat} (hL : 0 < L) (hab : a < b) (hb : b % L = 0) : (a / L + 1) * L ≤ b := by
  have hlt : a / L < b / L := by
    rwa [Nat.div_lt_iff_lt_mul hL, Nat.div_mul_cancel (Nat.dvd_of_mod_eq_zero hb)]
  exact (Nat.le_div_iff_mul_le hL).mp hlt

/-- R201: the `x` of the loop is the first underflow instant of its entry. -/
theorem TimerState.nextInstant_firstAfter (S : TimerState) (lo : Nat) :
    FirstAfter lo (S.isInstant · = true) (S.nextInstant lo) := by
  rcases Bool.eq_false_or_eq_true S.phiDriven with hphi | hphi
  · rcases hP : S.pred with _ | P
    · have hnext : S.nextInstant lo = none := by simp [nextInstant, hP]
      rw [hnext]
      exact firstAfter_none fun y _ => by simp [isInstant, hP]
    · rcases Nat.lt_or_ge lo P with hlt | hge
      · rw [nextInstant_future hphi hP hlt]
        refine firstAfter_some hlt ((isInstant_iff_eq_pred hphi hP le_rfl).mpr rfl) fun y _ hy hi => ?_
        exact hy.ne' ((isInstant_iff_eq_pred hphi hP hy.le).mp hi)
      · rcases Bool.eq_false_or_eq_true S.oneShot with ho | ho
        · rw [nextInstant_stopped hphi ho hP hge]
          exact firstAfter_none fun y hy hi => (hge.trans_lt hy).ne' ((isInstant_oneShot hphi ho hP y).mp hi)
        · have hnext := nextInstant_reloaded hphi ho hP hge
          have hinstant : S.isInstant (P + ((lo - P) / S.period + 1) * S.period) = true := by
            rw [isInstant_continuous hphi ho hP, Nat.add_sub_cancel_left]
            exact ⟨Nat.le_add_right _ _, Nat.mul_mod_left _ _⟩
          rw [hnext]
          refine firstAfter_some (lt_nextInstant hnext) hinstant fun y hlo hy hi => ?_
          obtain ⟨hPy, hmod⟩ := (isInstant_continuous hphi ho hP y).mp hi
          have hle := next_multiple_le S.period_pos (a := lo - P) (by omega) hmod
          omega
  · rw [nextInstant_idle lo hphi]
    exact firstAfter_none fun y _ => by simp [isInstant_idle hphi]

/-- R201(a): the loop over the stack ends at the first instant of the entry that governs it. -/
theorem targetFrom_firstAfter {lo : Nat} (S : TimerState) {l : List TimerState} (hl : Rising l)
    (hbasis : ∀ E ∈ l, lo < E.basis) :
    FirstAfter lo (fun x => (governing x S l).isInstant x = true) (targetFrom lo S l) := by
  induction l generalizing lo S with
  | nil => exact S.nextInstant_firstAfter lo
  | cons E l ih =>
    have hlo : lo ≤ E.basis - 1 := Nat.le_sub_one_of_lt (hbasis E (List.mem_cons_self ..))
    have hrest : ∀ F ∈ l, E.basis - 1 < F.basis := fun F hF =>
      Nat.lt_of_le_of_lt (Nat.sub_le _ _) (List.rel_of_pairwise_cons hl hF)
    have hS := S.nextInstant_firstAfter lo
    have hwindow : ∀ y, lo < y → y ≤ E.basis - 1 →
        (S.isInstant y = true ↔ (governing y S (E :: l)).isInstant y = true) := fun y _ hy => by
      rw [governing_cons_of_lt (by omega)]
    have hlater : IsBefore (E.basis - 1) (S.nextInstant lo) →
        FirstAfter lo (fun x => (governing x S (E :: l)).isInstant x = true) (targetFrom (E.basis - 1) E l) :=
      fun hpast => (ih E hl.of_cons hrest).past_window hlo
        (fun y hy hyE => (hwindow y hy hyE).not.mp ((hS.none_upTo_iff _).mpr hpast y hy hyE))
        fun y hy => by rw [governing_cons_of_le (by omega)]
    rw [targetFrom_cons]
    split
    · next hnone => exact hlater (hnone ▸ isBefore_none _)
    · next x hx =>
      split
      · next hle => exact (hx ▸ hS).in_window hle hwindow
      · next hgt => exact hlater (hx ▸ isBefore_some.mpr (Nat.lt_of_not_le hgt))

-- ---------------------------------------------------------------- the alarm of a sound unit

section SoundUnit
variable {p : Params} {u : TimerUnit}

/-- R201(a): the target is the first underflow instant of the history after `LU`. -/
theorem TimerUnit.Sound.target_firstAfter (h : u.Sound p) :
    FirstAfter u.lastUpdate (u.instantOfHistory · = true) u.target :=
  targetFrom_firstAfter u.current h.rising fun _ hE => h.lt_basis hE

theorem TimerUnit.Sound.lt_target (h : u.Sound p) {x : Nat} (hx : u.target = some x) : u.lastUpdate < x :=
  (h.target_firstAfter.holds x hx).1

theorem TimerUnit.Sound.advanceTo_n_eq_zero_iff (h : u.Sound p) {T : Nat} (hT : u.lastUpdate ≤ T) :
    (u.advanceTo T).n = 0 ↔ ∀ x, u.lastUpdate < x → x ≤ T → ¬ u.instantOfHistory x = true := by
  rw [h.advanceTo_n_eq_card hT, Finset.card_eq_zero, Finset.filter_eq_empty_iff]
  simp only [Finset.mem_Ioc, and_imp]

/-- R201(a), (c): an update counts nothing exactly when it stays before the target. -/
theorem TimerUnit.Sound.advanceTo_n_eq_zero_iff_target (h : u.Sound p) {T : Nat} (hT : u.lastUpdate ≤ T) :
    (u.advanceTo T).n = 0 ↔ IsBefore T u.target :=
  (h.advanceTo_n_eq_zero_iff hT).trans (h.target_firstAfter.none_upTo_iff T)

theorem RefMachine.runTo_of_le {r : RefMachine} {T : Nat} (h : T ≤ r.t) : r.runTo T = r := by
  rw [runTo, Nat.sub_eq_zero_of_le h]
  rfl

/-- `95_test_vectors.md` section 4 (3): the machine counts nothing exactly when it stays before the target; to a clock
at or before its own it does not tick. -/
theorem TimerUnit.Sound.runTo_ev_eq_iff_target (h : u.Sound p) (hd : ¬ u.DeadOneShot) {r : RefMachine}
    (ht : u.Tracks r) (T : Nat) : (r.runTo T).ev = r.ev ↔ IsBefore T u.target := by
  rcases Nat.lt_or_ge T u.lastUpdate with hT | hT
  · have hclock := (TimerUnit.tracks_iff.mp ht).1.clock
    rw [RefMachine.runTo_of_le (hclock ▸ hT.le)]
    exact iff_of_true rfl fun x hx => hT.trans (h.lt_target hx)
  · rw [(h.tracks_runTo hd ht hT).2, Nat.add_eq_left, h.advanceTo_n_eq_zero_iff_target hT]

/-- Machine and update agree on the count, so the machine's count never falls. -/
theorem TimerUnit.Sound.ev_le_runTo_ev (h : u.Sound p) (hd : ¬ u.DeadOneShot) {r : RefMachine} (ht : u.Tracks r)
    {T : Nat} (hT : u.lastUpdate ≤ T) : r.ev ≤ (r.runTo T).ev :=
  (h.tracks_runTo hd ht hT).2 ▸ Nat.le_add_right _ _

end SoundUnit

end Sys2Proof.Machine

namespace Sys2Proof
open Machine

/-- Settles O45: an update counts nothing exactly when it stays before the target. -/
theorem targetIsTheNextUnderflow : Obligations.TargetIsTheNextUnderflow := by
  intro p u hu
  have hzero : ∀ {T : Nat}, u.lastUpdate ≤ T → ((u.advance T).n = 0 ↔ IsBefore T u.target) := fun hT => by
    rw [TimerUnit.advance_forward hT, hu.sound.advanceTo_n_eq_zero_iff_target hT]
  refine ⟨fun x hx => ?_, fun hnever y hy => (hzero hy).mpr (hnever ▸ isBefore_none y)⟩
  have hlt := hu.sound.lt_target hx
  simp only [hx, isBefore_some] at hzero
  have hcounted : (u.advance x).n ≠ 0 := (hzero hlt.le).not.mpr (Nat.lt_irrefl x)
  exact ⟨hlt, Nat.one_le_iff_ne_zero.mpr hcounted, fun y hy => (hzero hy).mpr⟩

/-- Settles O46: every entry starts by `LU + LAT_RESTART`, and its next instant lies at most 65536 ticks after that. -/
theorem targetIsBounded : Obligations.TargetIsBounded := by
  intro p u x hu hx
  have hle := hu.sound.target_le hx
  exact ⟨hu.sound.lt_target hx, by omega⟩

/-- Settles O58: the machine ticked to a clock counts what an update to it counts, and the alarm is the target. -/
theorem alarmIsTheTickMachinesNextUnderflow : Obligations.AlarmIsTheTickMachinesNextUnderflow := by
  intro p u r hu hd ht
  have hsame := hu.sound.runTo_ev_eq_iff_target hd ht
  rw [hu.armed_eq]
  refine ⟨fun x hx => ?_, fun hnever y => (hsame y).mpr (hnever ▸ isBefore_none y)⟩
  have hlt := hu.sound.lt_target hx
  simp only [hx, isBefore_some] at hsame
  have hcounted : (r.runTo x).ev ≠ r.ev := (hsame x).not.mpr (Nat.lt_irrefl x)
  exact ⟨hlt, (hu.sound.ev_le_runTo_ev hd ht hlt.le).lt_of_ne' hcounted, fun y => (hsame y).mpr⟩

end Sys2Proof
end

section
/-! SUPPORT. The faults of a command (`60_exceptions.md` R220 to R222): which completions raise an abort-class fault,
and the checks of R221 one by one, in their order; and the steps, with a command presented and without (`20_memory.md` R67,
`70_reset_and_hazards.md` R263). -/

namespace Sys2Proof.Machine

-- ---------------------------------------------------------------- what an update and its body raise

/-- R220: beside the faults of its update a body raises `STKOVF` or nothing. -/
theorem bodyOf_raised_cases (p : Params) (i : Instr) (w : Progress) :
    (bodyOf p i w).raised = w.raised ∨ (bodyOf p i w).raised = w.raised ||| FaultKind.stkOvf.bit := by
  rcases bodyOf_cases p i with ⟨newlatch, e⟩ | ⟨c, e⟩ | ⟨k, e⟩ | e
  · rw [e]
    exact .inl rfl
  · rw [e]
    rcases w.writeControl_cases p c with e | ⟨b, e⟩
    · rw [e]
      exact .inr rfl
    · rw [e]
      exact .inl rfl
  · rw [e]
    rcases w.siblingTicks_cases k with e | ⟨_, _, e⟩
    · rw [e]
      exact .inl rfl
    · rw [e]
      exact .inl rfl
  · rw [e]
    exact .inl rfl

/-- R124, R225: on a sound stack no body raises anything. -/
theorem bodyOf_raised {p : Params} (hp : p.legal = true) (i : Instr) {w : Progress} (h : w.unit.Sound p) :
    (bodyOf p i w).raised = w.raised := by
  rcases bodyOf_cases p i with ⟨newlatch, e⟩ | ⟨c, e⟩ | ⟨k, e⟩ | e
  · rw [e]
    rfl
  · rw [e, Progress.writeControl_raised hp h]
  · rw [e]
    rcases w.siblingTicks_cases k with e | ⟨_, _, e⟩
    · rw [e]
    · rw [e]
  · rw [e]
    rfl

/-- R220: `REGRESS` and `STKOVF`, all that an update and its body can raise, are of class "continue". -/
theorem updated_raises_no_abort (p : Params) (i : Instr) (u : TimerUnit) (T : Nat) :
    (bodyOf p i (u.advance T)).raised &&& 0b1111010#7 = 0 := by
  have hupdate : (u.advance T).raised = FaultKind.regress.bit ∨ (u.advance T).raised = 0 :=
    (u.advance_fault T).2 ▸ ite_eq_or_eq _ _ _
  rcases bodyOf_raised_cases p i (u.advance T) with e | e
  · rcases hupdate with h | h <;> rw [e, h] <;> decide
  · rcases hupdate with h | h <;> rw [e, h] <;> decide

/-- R220, R222: a command with an abort-class bit in its result was refused with a fault of that class. -/
theorem CompletesAs.refused_of_abort_bit {p : Params} {u : TimerUnit} {i : Instr} {c : Completion}
    (h : CompletesAs p u i c) (hbit : c.result.fault &&& 0b1111010#7 ≠ 0) :
    ∃ k : FaultKind, k.aborts = true ∧ c = abort k u := by
  cases h with
  | refused i k hk => exact ⟨k, hk, rfl⟩
  | updated i a value hclk ha => exact absurd (updated_raises_no_abort p i _ _) hbit
  | untouched | reset | restored | rebased => exact absurd BitVec.zero_and hbit

-- ---------------------------------------------------------------- the checks of R221, in their order

section Checks
variable {p : Params} {u : TimerUnit} {i : Instr} {clk : Nat} {rs : RegSelect} {data : Byte} {snap : Arg}

theorem operandFault_regRead_eq_none_iff : (Instr.regRead clk rs).operandFault = none ↔ rs.isReserved = false := by
  simp [Instr.operandFault]

theorem operandFault_setControl_eq_none_iff :
    (Instr.setControl clk data).operandFault = none ↔ controlMalformed data = false := by
  simp [Instr.operandFault]

theorem operandFault_restore_eq_none_iff :
    (Instr.restore clk snap).operandFault = none ↔ snapshotMalformed snap = false := by
  simp [Instr.operandFault]

/-- R171: a write to the control register has the operand of `SET_CONTROL`. -/
theorem operandFault_regWrite_control :
    (Instr.regWrite clk .control data).operandFault = (Instr.setControl clk data).operandFault := by
  simp [Instr.operandFault, RegSelect.isReserved]

theorem clockOutOfRange_iff (hi : i.isRebase = false) : i.clockOutOfRange p u = true ↔ p.clkLimit < i.clockField := by
  rw [Instr.clockOutOfRange, hi, if_neg Bool.false_ne_true, decide_eq_true_iff]

theorem clockInRange_iff (hi : i.isRebase = false) : i.clockOutOfRange p u = false ↔ i.clockField ≤ p.clkLimit := by
  rw [← Bool.not_eq_true, clockOutOfRange_iff hi, Nat.not_lt]

theorem clockOutOfRange_rebase_iff {K : Nat} :
    (Instr.rebase K).clockOutOfRange p u = true ↔ u.current.basis < K := decide_eq_true_iff

theorem clockInRange_rebase_iff {K : Nat} :
    (Instr.rebase K).clockOutOfRange p u = false ↔ K ≤ u.current.basis := by
  rw [← Bool.not_eq_true, clockOutOfRange_rebase_iff, Nat.not_lt]

theorem isStale_iff : i.isStale u = true ↔ i = .valueAt i.clockField ∧ i.clockField ≠ u.lastUpdate := by
  rw [Instr.isStale, Bool.and_eq_true, beq_iff_eq, bne_iff_ne]

theorem setControlUnit_operandFault {k : FaultKind} (h : (Instr.setControl clk data).operandFault = some k) :
    setControlUnit p clk data u = abort k u := by
  obtain ⟨hbad, rfl⟩ : controlMalformed data = true ∧ FaultKind.badCtrl = k := by
    simpa [Instr.operandFault] using h
  exact if_pos hbad

/-- R221, step 2: an illegal operand is found before the clock is looked at. -/
theorem completionOf_operandFault {k : FaultKind} (h : i.operandFault = some k) : completionOf i u p = abort k u := by
  cases i with
  | regRead clk rs =>
    obtain ⟨hreserved, rfl⟩ : rs.isReserved = true ∧ FaultKind.illOp = k := by simpa [Instr.operandFault] using h
    exact regReadUnit_reserved hreserved
  | regWrite clk rs data =>
    cases rs with
    | control => exact setControlUnit_operandFault (operandFault_regWrite_control ▸ h)
    | reserved5 | reserved6 | reserved7 =>
      obtain rfl : FaultKind.illOp = k := Option.some.inj h
      rfl
    | countLo | countHi | latchLo | latchHi => exact absurd h.symm (Option.some_ne_none k)
  | setControl clk data => exact setControlUnit_operandFault h
  | restore clk snap =>
    obtain ⟨hbad, rfl⟩ : snapshotMalformed snap = true ∧ FaultKind.badSnap = k := by
      simpa [Instr.operandFault] using h
    exact restoreUnit_malformed hbad
  | reset | advance | valueAt | setLatchLo | setLatchHi | ackAlarm | cascadeTick | rebase | snapshot =>
    exact absurd h.symm (Option.some_ne_none k)

theorem setControlUnit_illegal (hop : (Instr.setControl clk data).operandFault = none) (hclk : p.clkLimit < clk) :
    setControlUnit p clk data u = abort .clkRange u :=
  (setControlUnit_wellFormed (operandFault_setControl_eq_none_iff.mp hop) clk).trans (clocked_illegal _ _ hclk)

/-- R221, step 3, for the commands with a clock operand. -/
theorem completionOf_illegal (hop : i.operandFault = none) (hi : i.isRebase = false)
    (hclk : p.clkLimit < i.clockField) :
    completionOf i u p = abort .clkRange u := by
  cases i with
  | reset clk => exact resetUnit_illegal hclk
  | valueAt clk => exact valueAtUnit_illegal hclk
  | advance | setLatchLo | setLatchHi | cascadeTick | snapshot => exact clocked_illegal _ _ hclk
  | setControl clk data => exact setControlUnit_illegal hop hclk
  | ackAlarm clk => exact ackAlarmUnit_illegal hclk
  | regRead clk rs => exact regReadUnit_illegal (operandFault_regRead_eq_none_iff.mp hop) hclk
  | regWrite clk rs data =>
    cases rs with
    | countLo | countHi => exact dropWrite_illegal hclk
    | latchLo | latchHi => exact clocked_illegal _ _ hclk
    | control => exact setControlUnit_illegal (operandFault_regWrite_control ▸ hop) hclk
    | reserved5 | reserved6 | reserved7 => exact absurd hop (Option.some_ne_none _)
  | rebase K => exact absurd hi.symm Bool.false_ne_true
  | restore clk snap => exact restoreUnit_illegal (operandFault_restore_eq_none_iff.mp hop) hclk

/-- R221, step 3: a clock or a `K` out of range. -/
theorem completionOf_clockOutOfRange (hop : i.operandFault = none) (h : i.clockOutOfRange p u = true) :
    completionOf i u p = abort .clkRange u := by
  rcases Bool.eq_false_or_eq_true i.isRebase with hi | hi
  · cases i with
    | rebase K => exact rebaseUnit_illegal (clockOutOfRange_rebase_iff.mp h)
    | reset | advance | valueAt | setLatchLo | setLatchHi | setControl | ackAlarm | regRead | regWrite | cascadeTick
    | snapshot | restore => exact absurd hi Bool.false_ne_true
  · exact completionOf_illegal hop hi ((clockOutOfRange_iff hi).mp h)

/-- R105, R221: a legal clock of `VALUE_AT` that is not `LU`. -/
theorem completionOf_stale (hclk : i.clockOutOfRange p u = false) (h : i.isStale u = true) :
    completionOf i u p = abort .stale u := by
  obtain ⟨hi, hne⟩ := isStale_iff.mp h
  generalize i.clockField = clk at hi hne
  subst hi
  have hlegal : clk ≤ p.clkLimit := (clockInRange_iff (i := .valueAt clk) rfl).mp hclk
  exact valueAtUnit_stale hlegal hne

/-- R220: a command that updates raises `REGRESS` at a clock below `LU`, and no other fault on a sound stack. -/
theorem completionOf_fault_of_updates (hp : p.legal = true) (h : u.Sound p) (hi : i.updates = true)
    (hop : i.operandFault = none) (hclk : i.clockField ≤ p.clkLimit) :
    (completionOf i u p).result.fault = if i.clockField < u.lastUpdate then FaultKind.regress.bit else 0 := by
  obtain ⟨value, e⟩ := reports_of_updates (u := u) hi hop hclk
  have hsound : TimerUnit.Sound p { u with armed := armedBefore u i } := h.congr rfl rfl rfl
  rw [e, Progress.finish_fault, bodyOf_raised hp i (hsound.advance _)]
  exact (TimerUnit.advance_fault i.clockField { u with armed := armedBefore u i }).2

/-- R105, R171, R180, R181, R183: a command that does not update raises nothing once it passed its checks. -/
theorem completionOf_fault_of_not_updates (hi : i.updates = false) (hop : i.operandFault = none)
    (hclk : i.clockOutOfRange p u = false) (hstale : i.isStale u = false) :
    (completionOf i u p).result.fault = 0 := by
  have hlegal : i.isRebase = false → i.clockField ≤ p.clkLimit := fun h => (clockInRange_iff h).mp hclk
  cases i with
  | reset clk => exact congrArg (·.result.fault) (resetUnit_legal (u := u) (hlegal rfl))
  | valueAt clk =>
    have hlu : clk = u.lastUpdate := by
      by_contra hne
      exact Bool.eq_false_iff.mp hstale (isStale_iff.mpr ⟨rfl, hne⟩)
    exact congrArg (·.result.fault) (valueAtUnit_current (hlegal rfl) hlu)
  | regWrite clk rs data =>
    have hcount : rs.isCount = true := Bool.not_eq_false' _ ▸ hi
    exact congrArg (·.result.fault) ((regWriteUnit_count hcount data).trans (dropWrite_legal (u := u) (hlegal rfl)))
  | rebase K =>
    exact congrArg (·.result.fault) (rebaseUnit_legal (clockInRange_rebase_iff.mp hclk))
  | restore clk snap =>
    have hsnap := operandFault_restore_eq_none_iff.mp hop
    exact congrArg (·.result.fault) (restoreUnit_legal (u := u) hsnap (hlegal rfl))
  | advance | setLatchLo | setLatchHi | setControl | ackAlarm | regRead | cascadeTick | snapshot =>
    exact absurd hi.symm Bool.false_ne_true

theorem isRebase_of_updates (hi : i.updates = true) : i.isRebase = false := by
  cases i with
  | rebase K => exact absurd hi Bool.false_ne_true
  | reset | advance | valueAt | setLatchLo | setLatchHi | setControl | ackAlarm | regRead | regWrite | cascadeTick
  | snapshot | restore => rfl

/-- R220, R221, R225: at legal parameters a command on a sound stack raises what the table says. -/
theorem completionOf_fault (hp : p.legal = true) (h : u.Sound p) (i : Instr) :
    (completionOf i u p).result.fault = i.expectedFaults p u := by
  unfold Instr.expectedFaults
  split
  next k hop => rw [completionOf_operandFault hop, abort_result]
  next hop =>
    split
    next hclk => rw [completionOf_clockOutOfRange hop hclk, abort_result]
    next hclk =>
      have hclk := Bool.eq_false_iff.mpr hclk
      split
      next hstale => rw [completionOf_stale hclk hstale, abort_result]
      next hstale =>
        rcases Bool.eq_false_or_eq_true i.updates with hi | hi
        · have hlegal := (clockInRange_iff (isRebase_of_updates hi)).mp hclk
          simp [completionOf_fault_of_updates hp h hi hop hlegal, hi]
        · simp [completionOf_fault_of_not_updates hi hop hclk (Bool.eq_false_iff.mpr hstale), hi]

end Checks

-- ---------------------------------------------------------------- the step

/-- R238, R260: the idle step. -/
theorem step_of_no_command {s : State} (h : s.commands = []) : step s = .next s := by
  simp only [step, State.nextCommand, h]

/-- R263: no step stops the run. -/
theorem step_goes_on (s : State) : ∃ t, step s = .next t := by
  rcases hc : s.commands with _ | ⟨w, rest⟩
  · exact ⟨s, step_of_no_command hc⟩
  · rcases hd : decode w with ⟨⟨op⟩⟩ | i
    · exact ⟨_, step_of_reservedOp hc hd⟩
    · exact ⟨_, (step_of_decode hc hd).trans (exec_eq_complete _ i)⟩

end Sys2Proof.Machine

namespace Sys2Proof
open Machine

/-- Settles O49: of the six ways to complete only a refusal shows an abort-class bit. -/
theorem abortChangesNothingElse : Obligations.AbortChangesNothingElse := by
  intro i s t h hbit
  obtain ⟨c, hc, rfl⟩ := exec_completesAs h
  obtain ⟨k, hk, rfl⟩ := hc.refused_of_abort_bit hbit
  exact ⟨k, hk, rfl⟩

/-- Settles O50, by the checks of R221 in their order; a sound stack has room for every control write. -/
theorem faultsFollowTheTable : Obligations.FaultsFollowTheTable := by
  intro i s t hs h
  rw [exec_eq_complete] at h
  cases h
  exact completionOf_fault params_legal hs.sound i

/-- Settles O8: there is no word to take. -/
theorem idleStepHoldsState : Obligations.IdleStepHoldsState := fun _ => step_of_no_command

/-- Settles O9: every command completes with what it does to the unit, and the stream is no part of that. -/
theorem everyCommandCompletes : Obligations.EveryCommandCompletes :=
  ⟨fun i s => ⟨_, _, exec_eq_complete s i, rfl, rfl⟩, step_goes_on⟩

end Sys2Proof
end
